-- ==== Sys2Proof/Word.lean ====
section
/-! DEFINITION. The block's words and small data types: levels, directions, thermocouple types, units, operation groups,
the pin binding, the arguments of construct, and a scale constant with its two readings. -/

namespace Sys2Proof

/-- An 8-bit command word (30_encoding R61), and one ASCII character of a text (30_encoding R69). -/
abbrev Byte := BitVec 8

/-- A 32-bit frame (30_encoding R50). -/
abbrev Frame := BitVec 32

/-- A 64-bit pattern: the RES port and a binary64 number (30_encoding R62, 00_scope R8). -/
abbrev Word64 := BitVec 64

/-- TEXT of a FAULTDESC response: ASCII bytes, no terminator (30_encoding R69). -/
abbrev Text := List Byte

/-- A digital level; there is no third one (20_memory R31). -/
inductive Level where
  | low
  | high
deriving DecidableEq, Repr, Inhabited

/-- The direction of a pin (20_memory R31, PinMode). -/
inductive PinDir where
  | input
  | output
deriving DecidableEq, Repr, Inhabited

/-- The three signal lines (20_memory R30): serial-out, serial-clock, chip-select. -/
inductive Line where
  | so
  | sck
  | cs
deriving DecidableEq, Repr, Inhabited

/-- A pin identifier. The spec leaves the type opaque (10_state R13); DESIGN CHOICE (log entry 8): a number, since its only
uses are as the argument of a pin primitive and in the test that the three differ. -/
abbrev PinId := Nat

/-- The binding of the three lines to pins, the `PIN_SO`, `PIN_SCK`, `PIN_CS` of 10_state R13. -/
structure PinBinding where
  so  : PinId
  sck : PinId
  cs  : PinId
deriving DecidableEq, Repr, Inhabited

/-- ThermocoupleType (10_state R14, 30_encoding R59), in the document's order. -/
inductive ThermocoupleType where
  | k
  | j
  | n
  | t
  | e
  | s
  | r
deriving DecidableEq, Repr, Inhabited

/-- The Unit of a temperature query (30_encoding R60). -/
inductive TempUnit where
  | celsius
  | fahrenheit
  | voltage
  | adjustedCelsius
deriving DecidableEq, Repr, Inhabited

/-- The five assigned operation groups, the OP field of the command word (30_encoding R61). -/
inductive OpGroup where
  | capture
  | rawFrame
  | faultDesc
  | coldj
  | hotj
deriving DecidableEq, Repr, Inhabited

/-- The arguments of construct, as the reset event presents them: the pin binding and the 3-bit type strap (70_reset R180). -/
structure ConstructArgs where
  pins     : PinBinding
  typeCode : BitVec 3
deriving DecidableEq, Repr, Inhabited

/-- A decimal constant of the document with both of its readings (00_scope R8): the literal is exactly
`mant / 10 ^ scale`, and `bits` is the binary64 pattern the spec's tables give for it. -/
structure Constant where
  mant  : Int
  scale : Nat
  bits  : Word64
deriving DecidableEq, Repr

end Sys2Proof
end

