-- ==== Sys2Proof/Syntax.lean ====
section
/-! DEFINITION. The instruction set: the nine operations of spec/opcode_table.json (30_encoding R61). None has an operand field. -/

namespace Sys2Proof

/-- The host operations (30_encoding R61). Construct is the reset event and not one of them (70_reset R180). -/
inductive Instr where
  /-- CAPTURE, 40_capture R80. -/
  | capture
  /-- RAWFRAME, 41_field_extract R100. -/
  | rawFrame
  /-- FAULTDESC, 41_field_extract R106. -/
  | faultDesc
  /-- COLDJ.C, 42_linear_scale R121. -/
  | coldjC
  /-- COLDJ.F, 42_linear_scale R122. -/
  | coldjF
  /-- HOTJ.C, 42_linear_scale R123. -/
  | hotjC
  /-- HOTJ.F, 42_linear_scale R124. -/
  | hotjF
  /-- HOTJ.V, 42_linear_scale R125. -/
  | hotjV
  /-- HOTJ.ADJ, 43_polynomial R140. -/
  | hotjAdj
deriving DecidableEq, Repr, Inhabited

/-- The operation group an instruction belongs to, its OP field (30_encoding R61). -/
def Instr.group : Instr → OpGroup
  | .capture => .capture
  | .rawFrame => .rawFrame
  | .faultDesc => .faultDesc
  | .coldjC => .coldj
  | .coldjF => .coldj
  | .hotjC => .hotj
  | .hotjF => .hotj
  | .hotjV => .hotj
  | .hotjAdj => .hotj

/-- The unit an instruction asks for, its UNIT field; 00 for the groups that are no temperature query (30_encoding R61). -/
def Instr.tempUnit : Instr → TempUnit
  | .capture => .celsius
  | .rawFrame => .celsius
  | .faultDesc => .celsius
  | .coldjC => .celsius
  | .coldjF => .fahrenheit
  | .hotjC => .celsius
  | .hotjF => .fahrenheit
  | .hotjV => .voltage
  | .hotjAdj => .adjustedCelsius

end Sys2Proof
end

