-- ==== Sys2Proof/WellFormed.lean ====
section
/-! DEFINITION. Which pairs of operation group and unit are operations, and which arguments construct accepts. -/

namespace Sys2Proof

/-- The units an operation group admits (30_encoding R60, R61, R65): only 00 for CAPTURE, RAWFRAME and FAULTDESC, the first two for
COLDJ, all four for HOTJ. -/
def unitAdmitted : OpGroup → TempUnit → Bool
  | .capture, u => u == .celsius
  | .rawFrame, u => u == .celsius
  | .faultDesc, u => u == .celsius
  | .coldj, u => u == .celsius || u == .fahrenheit
  | .hotj, _ => true

/-- An instruction is well formed when its group admits its unit. Every one is: the nine constructors are exactly the admitted
pairs, and no instruction has an operand. -/
def Instr.wf (i : Instr) : Bool :=
  unitAdmitted i.group i.tempUnit

/-- The three pin identifiers are pairwise distinct (10_state R13, 92_eei_decisions D21). -/
def PinBinding.distinct (p : PinBinding) : Bool :=
  p.so != p.sck && p.so != p.cs && p.sck != p.cs

/-- The arguments construct accepts: type code 7 is reserved and refused (30_encoding R59, 10_state R14), and so are pin
identifiers that coincide (92_eei_decisions D21, 93_implementation_defined U14). -/
def ConstructArgs.wf (a : ConstructArgs) : Bool :=
  a.typeCode != 7#3 && a.pins.distinct

end Sys2Proof
end

