-- ==== Sys2Proof/Config.lean ====
section
/-! DEFINITION. What an implementation fixes and the spec leaves open. Every `opaque` constant here is a free value: nothing
can be proved about which value it is, so a theorem holds for every value. -/

namespace Sys2Proof

/-- `FRAME_RESET` (00_scope R5, 70_reset R182): the value of FRAME after a construct, one for each construct (70_reset R183). -/
opaque Config.frameReset : Nat → Frame

/-- SR after a construct: unspecified (10_state R23, 70_reset R181). -/
opaque Config.srReset : Nat → BitVec 32

/-- BITIDX after a construct: unspecified (10_state R23, 70_reset R181). -/
opaque Config.bitIdxReset : Nat → BitVec 5

/-- The level PinRead(PIN_SO) returns where State.soLine lists none (20_memory R32): one free draw for each read. -/
opaque Config.soLevel : Nat → Level

/-- `T_SETTLE_US` (00_scope R5, 40_capture R83). -/
opaque Config.settleUs : Nat

/-- `T_CLK_HIGH_US` (00_scope R5, 40_capture R92). -/
opaque Config.clkHighUs : Nat

/-- `T_CLK_LOW_US` (00_scope R5, 40_capture R92). -/
opaque Config.clkLowUs : Nat

/-- `TCTYPE` as given to the construct behind State.reset (00_scope R5). -/
opaque Config.tctype : ThermocoupleType

/-- The pin identifiers as given to the construct behind State.reset (00_scope R5), distinct or not. -/
opaque Config.pins : PinBinding

/-- The payload of the NaN that an invalid binary64 operation returns. IEEE 754 leaves it open, and no operation of the block on
any frame produces a NaN (60_exceptions R165). -/
opaque Config.nanPayload : BitVec 51

/-- The pin binding of State.reset: `Config.pins` where its three identifiers differ, as 92_eei_decisions D21 requires of a
construct, and 0, 1, 2 otherwise (DESIGN CHOICE, log entry 7). Every distinct binding is thereby possible. -/
def Config.resetPins : PinBinding :=
  if Config.pins.distinct then Config.pins else ⟨0, 1, 2⟩

end Sys2Proof
end

