-- ==== Sys2Proof/Decode.lean ====
section
/-! DEFINITION. The command word and the type code: decoder, total on every byte, and encoder. Both are written from the field
table of 30_encoding R61. -/

namespace Sys2Proof

/-- Why a command word is reserved, the classes of 30_encoding R64 and R65. -/
inductive Reserved where
  /-- The Z field is not 000. -/
  | zNotZero
  /-- OP is 000, 110 or 111. -/
  | opUnassigned
  /-- CAPTURE, RAWFRAME or FAULTDESC with UNIT not 00. -/
  | unitNotZero
  /-- COLDJ with UNIT VOLTAGE or ADJUSTED_CELSIUS (R65). -/
  | coldUnit
deriving DecidableEq, Repr

/-- Bits 7:5 of the command word. -/
def zField (w : Byte) : BitVec 3 := w.extractLsb' 5 3

/-- Bits 4:2 of the command word. -/
def opField (w : Byte) : BitVec 3 := w.extractLsb' 2 3

/-- Bits 1:0 of the command word. -/
def unitField (w : Byte) : BitVec 2 := w.extractLsb' 0 2

/-- The OP codes (30_encoding R61); 000, 110 and 111 are unassigned (R64). -/
def OpGroup.ofCode (c : BitVec 3) : Option OpGroup :=
  match c.toNat with
  | 1 => some .capture
  | 2 => some .rawFrame
  | 3 => some .faultDesc
  | 4 => some .coldj
  | 5 => some .hotj
  | _ => none

/-- The Unit codes (30_encoding R60). -/
def TempUnit.ofCode (c : BitVec 2) : TempUnit :=
  match c.toNat with
  | 0 => .celsius
  | 1 => .fahrenheit
  | 2 => .voltage
  | _ => .adjustedCelsius

/-- The operation a group and a unit stand for (30_encoding R61, R64, R65). -/
def decodeUnit : OpGroup → TempUnit → Except Reserved Instr
  | .capture, .celsius => .ok .capture
  | .capture, _ => .error .unitNotZero
  | .rawFrame, .celsius => .ok .rawFrame
  | .rawFrame, _ => .error .unitNotZero
  | .faultDesc, .celsius => .ok .faultDesc
  | .faultDesc, _ => .error .unitNotZero
  | .coldj, .celsius => .ok .coldjC
  | .coldj, .fahrenheit => .ok .coldjF
  | .coldj, _ => .error .coldUnit
  | .hotj, .celsius => .ok .hotjC
  | .hotj, .fahrenheit => .ok .hotjF
  | .hotj, .voltage => .ok .hotjV
  | .hotj, .adjustedCelsius => .ok .hotjAdj

/-- The decoder: one byte alone decides (30_encoding R67); a reserved word is refused with its reason (R64, R65). -/
def decode (w : Byte) : Except Reserved Instr :=
  if zField w = 0#3 then
    match OpGroup.ofCode (opField w) with
    | some g => decodeUnit g (TempUnit.ofCode (unitField w))
    | none => .error .opUnassigned
  else .error .zNotZero

/-- A byte sequence as a sequence of operations (30_encoding R67: each byte is one operation; R68: a program is a sequence of
them); refused at its first reserved word. -/
def decodeProgram : List Byte → Except Reserved (List Instr)
  | [] => .ok []
  | w :: ws =>
    match decode w, decodeProgram ws with
    | .ok i, .ok is => .ok (i :: is)
    | .error e, _ => .error e
    | .ok _, .error e => .error e

/-- The OP code of a group (30_encoding R61). -/
def OpGroup.code : OpGroup → BitVec 3
  | .capture => 0b001#3
  | .rawFrame => 0b010#3
  | .faultDesc => 0b011#3
  | .coldj => 0b100#3
  | .hotj => 0b101#3

/-- The code of a unit (30_encoding R60). -/
def TempUnit.code : TempUnit → BitVec 2
  | .celsius => 0b00#2
  | .fahrenheit => 0b01#2
  | .voltage => 0b10#2
  | .adjustedCelsius => 0b11#2

/-- The encoder: `000 OP UNIT` (30_encoding R61). -/
def encode (i : Instr) : Byte :=
  0b000#3 ++ i.group.code ++ i.tempUnit.code

/-- The numbers of ThermocoupleType (30_encoding R59); 7 is reserved. -/
def ThermocoupleType.ofCode (c : BitVec 3) : Option ThermocoupleType :=
  match c.toNat with
  | 0 => some .k
  | 1 => some .j
  | 2 => some .n
  | 3 => some .t
  | 4 => some .e
  | 5 => some .s
  | 6 => some .r
  | _ => none

/-- The 3-bit code of a type (30_encoding R59). -/
def ThermocoupleType.code : ThermocoupleType → BitVec 3
  | .k => 0#3
  | .j => 1#3
  | .n => 2#3
  | .t => 3#3
  | .e => 4#3
  | .s => 5#3
  | .r => 6#3

/-- The instruction the decoder reads from a command word given as the bits of a number, bit 0 the least significant. A command
is one byte: the bits above it are not part of the instruction. -/
def decodeTableWord (nbits w : Nat) : Option Instr :=
  match decode (BitVec.ofNat 8 (w % 2 ^ nbits)) with
  | .ok i => some i
  | .error _ => none

end Sys2Proof
end

