-- ==== Sys2Proof/Machine/State.lean ====
section
/-! DEFINITION. The machine's state as plain data, its value after reset, the responses and pin events it records, and the
reasons a step can stop. -/

namespace Sys2Proof.Machine

/-- The positions of the capture sequencer, SEQ (10_state R17, 40_capture R90). -/
inductive Seq where
  | idle
  | sPre
  | sCsLow
  | sSettle
  | sRise
  | sSample
  | sFall
  | sCsHigh
deriving DecidableEq, Repr, Inhabited

/-- The two error classes that are reported in ERR (60_exceptions R160, R163, R166). A sensor fault is no error (R161).
DESIGN CHOICE (log entry 9): the argument of `raise` is kept as a record of the model's; it is no part of the response the host gets
(30_encoding R62), whose ERR field is `Response.err`. -/
inductive ErrorClass where
  /-- `raise UnsupportedConfiguration(t)` (00_scope R7). -/
  | unsupportedConfiguration (ty : ThermocoupleType)
  /-- `raise IllegalCommand(c)` (00_scope R7). -/
  | illegalCommand (w : Byte)
deriving DecidableEq, Repr

/-- A response to the host (30_encoding R62). The error response carries no RES and no VALID, which are unspecified there
(60_exceptions R164, 93_implementation_defined U2). -/
inductive Response where
  /-- ERR = OK with VALID, RES and, for FAULTDESC only, TEXT. -/
  | ok (valid : Bool) (res : Word64) (text : Option Text)
  /-- ERR not OK. The argument inside `why` is a record only (DESIGN CHOICE, log entry 9). -/
  | error (why : ErrorClass)
deriving DecidableEq, Repr

/-- One call of a platform primitive (20_memory R31). A read records the level it returned; `line` is the block's name of the
line and `pin` the identifier bound to it. -/
inductive PinEvent where
  | mode (line : Line) (pin : PinId) (d : PinDir)
  | write (line : Line) (pin : PinId) (l : Level)
  | read (pin : PinId) (l : Level)
  | delay (us : Nat)
deriving DecidableEq, Repr

/-- The reasons a step can end in a fault. There is none: every operation of every legal or illegal command word ends with a
response (93_implementation_defined, end of part 1), the platform primitives cannot fail (20_memory R31) and there is no
arithmetic exception (60_exceptions R165). -/
inductive Fault where
deriving DecidableEq, Repr

/-- The reasons a step can be refused. -/
inductive Refusal where
  /-- Raised by exec for an instruction that has no meaning yet. Safe: nothing can be proved of a run that reaches it. -/
  | notModelled (mnemonic : String)
  /-- Raised by construct for type code 7 (10_state R14, 93_implementation_defined U11: refuse). Safe. -/
  | reservedThermocoupleType
  /-- Raised by construct for pin identifiers that coincide (92_eei_decisions D21, 93_implementation_defined U14: refuse). Safe. -/
  | coincidentPins
deriving DecidableEq, Repr

/-- The state. The first eleven fields are the block's (10_state); the last seven are the model's own: inputs, outputs and the
counters of free values. -/
structure State where
  /-- FRAME, the one data register (10_state R10). -/
  frame      : Frame
  /-- TCTYPE (10_state R14). -/
  tctype     : ThermocoupleType
  /-- PIN_SO, PIN_SCK, PIN_CS (10_state R13). -/
  pins       : PinBinding
  /-- SCK_OUT, the level last written to the clock line (10_state R15). -/
  sckOut     : Level
  /-- CS_OUT, the level last written to the chip-select line (10_state R15). -/
  csOut      : Level
  /-- SO_DIR (10_state R23). -/
  soDir      : PinDir
  /-- Direction of the clock line (70_reset R180). -/
  sckDir     : PinDir
  /-- Direction of the chip-select line (70_reset R180). -/
  csDir      : PinDir
  /-- SEQ (10_state R17). -/
  seq        : Seq
  /-- BITIDX (10_state R17). -/
  bitIdx     : BitVec 5
  /-- SR (10_state R19). -/
  sr         : BitVec 32
  /-- The reset event now presented, if any (70_reset R180, R183; log entry 11). -/
  rst        : Option ConstructArgs
  /-- The command words the host has still to present, in order (20_memory R36, R37; log entry 1). -/
  cmds       : List Byte
  /-- The levels serial-out will show at the coming reads, in order (20_memory R32; log entry 4). -/
  soLine     : List Level
  /-- How many reads have been made: the index of the free levels (log entry 4). -/
  soReads    : Nat
  /-- How many constructs have been done: the index of the free values of FRAME, SR and BITIDX (log entry 5). -/
  constructs : Nat
  /-- The responses given so far, oldest first (30_encoding R62; log entry 9). -/
  responses  : List Response
  /-- The platform calls made so far, oldest first (40_capture R91; log entry 10). -/
  trace      : List PinEvent
deriving DecidableEq, Repr

/-- The state right after reset, that is after construct (10_state R23, 70_reset R181), with no command presented. FRAME, SR,
BITIDX, TCTYPE and the pins hold free values (log entries 5, 6, 7). -/
def State.reset : State where
  frame := Config.frameReset 0
  tctype := Config.tctype
  pins := Config.resetPins
  sckOut := .low
  csOut := .high
  soDir := .input
  sckDir := .output
  csDir := .output
  seq := .idle
  bitIdx := Config.bitIdxReset 0
  sr := Config.srReset 0
  rst := none
  cmds := []
  soLine := []
  soReads := 0
  constructs := 1
  responses := []
  trace :=
    [.mode .cs Config.resetPins.cs .output, .write .cs Config.resetPins.cs .high,
     .mode .sck Config.resetPins.sck .output, .write .sck Config.resetPins.sck .low,
     .mode .so Config.resetPins.so .input]

end Sys2Proof.Machine
end

