-- ==== Sys2Proof/Machine/Flags.lean ====
section
/-! DEFINITION. The flags. The block has no condition code register (10_state R20): its flags are bits of FRAME, and the parts of a
response are read off the response. -/

namespace Sys2Proof.Machine

/-- `FAULTBIT(f) = f[16]` (41_field_extract R104). -/
def faultBit (f : Frame) : Bool := f.getLsbD 16

/-- `VALID = NOT FRAME[16]` of the frame just captured, and of no other bit (40_capture R88). -/
def validFlag (f : Frame) : Bool := !faultBit f

/-- The ERR field of a response (30_encoding R62): 0 OK, 1 UNSUPPORTED_CONFIGURATION, 2 ILLEGAL_COMMAND. -/
def Response.err : Response → BitVec 2
  | .ok _ _ _ => 0#2
  | .error (.unsupportedConfiguration _) => 1#2
  | .error (.illegalCommand _) => 2#2

/-- The VALID field, where the response has one. -/
def Response.valid? : Response → Option Bool
  | .ok v _ _ => some v
  | .error _ => none

/-- The RES field, where the response has one (60_exceptions R164). -/
def Response.res? : Response → Option Word64
  | .ok _ r _ => some r
  | .error _ => none

/-- The TEXT part, where the response has one. -/
def Response.text? : Response → Option Text
  | .ok _ _ t => t
  | .error _ => none

end Sys2Proof.Machine
end

