-- ==== Sys2Proof/Machine/Ops.lean ====
section
/-! DEFINITION. The named operations every meaning is made of: the four platform primitives on the block's lines, recording a
sampled bit, responding to the host, reporting an error, construct, and taking the next command word. There is no memory
(20_memory R30), so there is no memory operation. -/

namespace Sys2Proof.Machine

/-- BUSY is the predicate SEQ != IDLE (10_state R18). -/
def State.busy (s : State) : Bool := s.seq != .idle

/-! ### The platform primitives (20_memory R31) -/

/-- PinMode(PIN_SO, d). -/
def State.modeSo (s : State) (d : PinDir) : State :=
  { s with soDir := d, trace := s.trace ++ [.mode .so s.pins.so d] }

/-- PinMode(PIN_SCK, d). -/
def State.modeSck (s : State) (d : PinDir) : State :=
  { s with sckDir := d, trace := s.trace ++ [.mode .sck s.pins.sck d] }

/-- PinMode(PIN_CS, d). -/
def State.modeCs (s : State) (d : PinDir) : State :=
  { s with csDir := d, trace := s.trace ++ [.mode .cs s.pins.cs d] }

/-- PinWrite(PIN_SCK, l): SCK_OUT <- l (10_state R15). -/
def State.writeSck (s : State) (l : Level) : State :=
  { s with sckOut := l, trace := s.trace ++ [.write .sck s.pins.sck l] }

/-- PinWrite(PIN_CS, l): CS_OUT <- l (10_state R15). -/
def State.writeCs (s : State) (l : Level) : State :=
  { s with csOut := l, trace := s.trace ++ [.write .cs s.pins.cs l] }

/-- The level of the k-th read from now on, k from 0: what the chip is set to present, and a free level beyond that
(20_memory R32). -/
def State.draw (s : State) (k : Nat) : Level :=
  match s.soLine[k]? with
  | some l => l
  | none => Config.soLevel (s.soReads + k)

/-- The state after PinRead(PIN_SO), which returns `s.draw 0`. The read itself changes nothing of the block (20_memory R32): it uses
up one level of the line. -/
def State.afterRead (s : State) : State :=
  { s with
    soLine := s.soLine.tail
    soReads := s.soReads + 1
    trace := s.trace ++ [.read s.pins.so (s.draw 0)] }

/-- Delay(us): no effect but the event (40_capture R83). -/
def State.delay (s : State) (us : Nat) : State :=
  { s with trace := s.trace ++ [.delay us] }

/-- A clock-phase delay: absent when its length is 0 (40_capture R92, R91). -/
def State.clockDelay (s : State) (us : Nat) : State :=
  if us = 0 then s else s.delay us

/-! ### The accumulator -/

/-- SR with the sampled level recorded at bit `i`: set when HIGH, left alone when LOW (40_capture R85; 41_field_extract R109 b: an OR
with `2 ^ BITIDX`). -/
def recordLevel (sr : BitVec 32) (i : BitVec 5) (l : Level) : BitVec 32 :=
  match l with
  | .high => sr ||| (1#32 <<< i.toNat)
  | .low => sr

/-- `b <- PinRead(PIN_SO); if b = HIGH then SR[BITIDX] <- 1` (40_capture R80, R90). -/
def State.sample (s : State) : State :=
  { s.afterRead with sr := recordLevel s.sr s.bitIdx (s.draw 0) }

/-! ### Responses and errors -/

/-- Deliver a response to the host (30_encoding R62). Outputs are no state of the block (10_state R21): the list records them. -/
def State.respond (s : State) (r : Response) : State :=
  { s with responses := s.responses ++ [r] }

/-- `respond(ERR = OK, VALID = 0, RES = p)`, the response of every operation but CAPTURE and FAULTDESC (30_encoding R62). -/
def State.respondRes (s : State) (p : Word64) : State :=
  s.respond (.ok false p none)

/-- Error entry, the one way an operation reports an error (60_exceptions R169): nothing is saved, no mode changes, nothing is
masked, control goes nowhere; the error stands in the response to the operation that caused it. There is no return operation, since
nothing was entered (R170). -/
def State.raiseError (s : State) (why : ErrorClass) : State :=
  s.respond (.error why)

/-- The decoder met a reserved word (60_exceptions R166): the error response and nothing else. -/
def illegalCommand (w : Byte) (s : State) : Host.Outcome State Fault Refusal :=
  .next (s.raiseError (.illegalCommand w))

/-! ### Construct -/

/-- The state construct leaves (70_reset R180 to R183): pins and type stored, the five pin calls in the order R180 gives, the
sequencer idle, and free values in FRAME, SR and BITIDX. No response is given, and one still owed by a running CAPTURE is not
given either (R183). -/
def State.constructed (s : State) (p : PinBinding) (ty : ThermocoupleType) : State :=
  let s1 := { s with pins := p, tctype := ty }
  let s2 := ((((s1.modeCs .output).writeCs .high).modeSck .output).writeSck .low).modeSo .input
  { s2 with
    seq := .idle
    frame := Config.frameReset s.constructs
    sr := Config.srReset s.constructs
    bitIdx := Config.bitIdxReset s.constructs
    constructs := s.constructs + 1 }

/-- Construct (70_reset R180): refused for the reserved type code (10_state R14) and for pins that coincide
(92_eei_decisions D21). -/
def construct (a : ConstructArgs) (s : State) : Host.Outcome State Fault Refusal :=
  match ThermocoupleType.ofCode a.typeCode with
  | none => .refused .reservedThermocoupleType
  | some ty => if a.pins.distinct then .next (s.constructed a.pins ty) else .refused .coincidentPins

/-! ### Taking a command -/

/-- The command word presented to the block and the state once it is accepted; none while no word is presented
(20_memory R36). -/
def State.fetch (s : State) : Option (Byte × State) :=
  match s.cmds with
  | [] => none
  | w :: rest => some (w, { s with cmds := rest })

end Sys2Proof.Machine
end

