-- ==== Sys2Proof/Machine/Sequencer.lean ====
section
/-! DEFINITION. The capture sequencer, one micro-step for each row of the table of 40_capture R90. -/

namespace Sys2Proof.Machine

/-- Row IDLE: the command word of CAPTURE is accepted. -/
def State.startCapture (s : State) : State :=
  { s with seq := .sPre }

/-- Row S_PRE: `PinWrite(PIN_SCK, LOW); SR <- 0`. -/
def State.stepPre (s : State) : State :=
  { s.writeSck .low with sr := 0#32, seq := .sCsLow }

/-- Row S_CSLOW: `PinWrite(PIN_CS, LOW)`. -/
def State.stepCsLow (s : State) : State :=
  { s.writeCs .low with seq := .sSettle }

/-- Row S_SETTLE: `Delay(T_SETTLE_US); BITIDX <- 31`. -/
def State.stepSettle (s : State) : State :=
  { s.delay Config.settleUs with bitIdx := 31#5, seq := .sRise }

/-- Row S_RISE: `PinWrite(PIN_SCK, HIGH); Delay(T_CLK_HIGH_US)`. -/
def State.stepRise (s : State) : State :=
  { (s.writeSck .high).clockDelay Config.clkHighUs with seq := .sSample }

/-- Row S_SAMPLE: `b <- PinRead(PIN_SO); if b = HIGH then SR[BITIDX] <- 1`. -/
def State.stepSample (s : State) : State :=
  { s.sample with seq := .sFall }

/-- The two rows S_FALL: `PinWrite(PIN_SCK, LOW); Delay(T_CLK_LOW_US)`, then the next bit, or the end after bit 0. -/
def State.stepFall (s : State) : State :=
  let s1 := (s.writeSck .low).clockDelay Config.clkLowUs
  if s.bitIdx = 0#5 then { s1 with seq := .sCsHigh }
  else { s1 with bitIdx := s.bitIdx - 1#5, seq := .sRise }

/-- `FRAME <- SR` and the response of CAPTURE (40_capture R87, R88). -/
def State.commit (s : State) : State :=
  { s with frame := s.sr }.respond (.ok (validFlag s.sr) 0#64 none)

/-- Row S_CSHIGH: `PinWrite(PIN_CS, HIGH); FRAME <- SR; respond(OK, NOT SR[16], 0)`. -/
def State.stepCsHigh (s : State) : State :=
  { (s.writeCs .high).commit with seq := .idle }

/-- One micro-step (40_capture R90). Every step is enabled unconditionally; in IDLE nothing happens without a command. -/
def State.microStep (s : State) : State :=
  match s.seq with
  | .idle => s
  | .sPre => s.stepPre
  | .sCsLow => s.stepCsLow
  | .sSettle => s.stepSettle
  | .sRise => s.stepRise
  | .sSample => s.stepSample
  | .sFall => s.stepFall
  | .sCsHigh => s.stepCsHigh

/-- `n` micro-steps. -/
def State.microSteps : Nat → State → State
  | 0, s => s
  | n + 1, s => State.microSteps n s.microStep

/-- How many micro-steps a running CAPTURE still takes until it is back in IDLE (40_capture R90: 100 after acceptance). -/
def State.remaining (s : State) : Nat :=
  match s.seq with
  | .idle => 0
  | .sPre => 100
  | .sCsLow => 99
  | .sSettle => 98
  | .sRise => 3 * s.bitIdx.toNat + 4
  | .sSample => 3 * s.bitIdx.toNat + 3
  | .sFall => 3 * s.bitIdx.toNat + 2
  | .sCsHigh => 1

end Sys2Proof.Machine
end

