-- ==== Sys2Proof/Machine/Accept.lean ====
section
/-! DEFINITION. What surrounds an operation: the reset event, a running CAPTURE, and the acceptance of the next command word. -/

namespace Sys2Proof.Machine

/-- A command word is accepted (30_encoding R64, 60_exceptions R166, R168): the decoder decides first, on the word alone. -/
def acceptWord (run : Instr → State → Host.Outcome State Fault Refusal) (w : Byte) (s : State) :
    Host.Outcome State Fault Refusal :=
  match decode w with
  | .ok i => run i s
  | .error _ => illegalCommand w s

/-- One step of the block, `run` being what an accepted operation does. A reset event comes first, whatever is running
(70_reset R183); else a running CAPTURE takes its next micro-step and no command is accepted (20_memory R37); else the command word
presented is accepted; without one the block stays as it is (60_exceptions R167, R175). -/
def stepWith (run : Instr → State → Host.Outcome State Fault Refusal) (s : State) : Host.Outcome State Fault Refusal :=
  match s.rst with
  | some a => construct a { s with rst := none }
  | none =>
    if s.busy then .next s.microStep
    else
      match s.fetch with
      | none => .next s
      | some (w, s1) => acceptWord run w s1

end Sys2Proof.Machine
end

