-- ==== Sys2Proof/Machine/Capture.lean ====
section
/-! DEFINITION. CAPTURE as one atomic step: the pseudocode of 40_capture R80, statement by statement, over the platform primitives. The
same operation as micro-steps is in Sequencer.lean (R93 says the two agree). -/

namespace Sys2Proof.Machine

/-- One iteration of the bit loop, for bit `i` (40_capture R84, R85, R92). BITIDX is the loop's `i`. -/
def State.captureBit (s : State) (i : BitVec 5) : State :=
  let s1 := ({ s with bitIdx := i }.writeSck .high).clockDelay Config.clkHighUs
  (s1.sample.writeSck .low).clockDelay Config.clkLowUs

/-- `for i = n - 1 downto 0` (40_capture R84). -/
def State.captureLoop : Nat → State → State
  | 0, s => s
  | n + 1, s => State.captureLoop n (s.captureBit (BitVec.ofNat 5 n))

/-- The statements before the loop (40_capture R81, R82, R83). -/
def State.beginCapture (s : State) : State :=
  (({ s.writeSck .low with sr := 0#32 }).writeCs .low).delay Config.settleUs

/-- The statements after the loop (40_capture R86, R87, R88). -/
def State.endCapture (s : State) : State :=
  { (s.writeCs .high).commit with seq := .idle }

/-- CAPTURE (40_capture R80). It never fails, never waits and takes the same course on every line (R89). -/
def execCapture (s : State) : Host.Outcome State Fault Refusal :=
  .next (State.captureLoop 32 s.beginCapture).endCapture

/-! ### The closed form, in which the statements about CAPTURE are written -/

/-- A level as bit `n` of a 32-bit value: HIGH is 1 (40_capture R85). -/
def levelBit (l : Level) (n : Nat) : BitVec 32 :=
  match l with
  | .high => 1#32 <<< n
  | .low => 0#32

/-- The 32-bit value whose bit `31 - k` is 1 exactly when the k-th of the 32 levels is HIGH (40_capture R80, 20_memory R33):
of a list of levels the first is the most significant bit. -/
def assemble : List Level → BitVec 32
  | [] => 0#32
  | l :: ls => levelBit l ls.length ||| assemble ls

/-- The next `n` levels of serial-out. -/
def State.levels (s : State) (n : Nat) : List Level := (List.range n).map s.draw

/-- A clock-phase delay in the trace: absent when 0 (40_capture R91, R92). -/
def clockDelayEvents (us : Nat) : List PinEvent := if us = 0 then [] else [.delay us]

/-- The pin events of one bit (40_capture R91). -/
def bitEvents (p : PinBinding) (hi lo : Nat) (l : Level) : List PinEvent :=
  [.write .sck p.sck .high] ++ clockDelayEvents hi ++ [.read p.so l] ++ [.write .sck p.sck .low] ++ clockDelayEvents lo

/-- The pin-event trace of one CAPTURE (40_capture R91) for the three delay lengths and the levels read. -/
def captureEvents (p : PinBinding) (settle hi lo : Nat) (ls : List Level) : List PinEvent :=
  [.write .sck p.sck .low, .write .cs p.cs .low, .delay settle] ++ ls.flatMap (bitEvents p hi lo) ++ [.write .cs p.cs .high]

end Sys2Proof.Machine
end

