-- ==== Sys2Proof/Machine/Operands.lean ====
section
/-! DEFINITION. The operands: the fields of the frame (30_encoding R50, R63; 41_field_extract R101 to R104) and the text of the
sub-fault flags (41_field_extract R107). -/

namespace Sys2Proof.Machine

/-- `HOTCODE(f) = sext_14(f[31:18])` (41_field_extract R101). -/
def hotCode (f : Frame) : Int := (f.extractLsb' 18 14).toInt

/-- `COLDCODE(f) = sext_12(f[15:4])` (41_field_extract R102). -/
def coldCode (f : Frame) : Int := (f.extractLsb' 4 12).toInt

/-- `SUBFAULT(f) = f[2:0]` (41_field_extract R104). -/
def subFault (f : Frame) : BitVec 3 := f.extractLsb' 0 3

/-- `asr32(x, n)`: the 32-bit pattern read as signed and shifted right by n with sign fill (41_field_extract R103). -/
def asr32 (x : BitVec 32) (n : Nat) : Int := (x.sshiftRight n).toInt

/-- A phrase as ASCII bytes (30_encoding R69). -/
def asciiText (t : String) : Text := t.toList.map fun c => BitVec.ofNat 8 c.toNat

/-- A phrase if its flag is set, nothing otherwise (41_field_extract R107). -/
def phraseIf (flag : Bool) (t : String) : Text := if flag then asciiText t else []

/-- `FaultText(s)` (41_field_extract R107): bit 0, then bit 1, then bit 2, each phrase with one trailing space. -/
def faultText (s : BitVec 3) : Text :=
  phraseIf (s.getLsbD 0) "Open Circuit " ++ phraseIf (s.getLsbD 1) "Short to GND " ++ phraseIf (s.getLsbD 2) "Short to Vcc "

end Sys2Proof.Machine
end

