-- ==== Sys2Proof/Machine/FieldExtract.lean ====
section
/-! DEFINITION. RAWFRAME and FAULTDESC (41_field_extract). -/

namespace Sys2Proof.Machine

/-- RAWFRAME (41_field_extract R100): `respond(ERR = OK, VALID = 0, RES = zext_64(FRAME))`. -/
def execRawFrame (s : State) : Host.Outcome State Fault Refusal :=
  .next (s.respondRes (s.frame.setWidth 64))

/-- FAULTDESC (41_field_extract R106): RES = zext_64(FRAME[2:0]) and TEXT = FaultText. -/
def execFaultDesc (s : State) : Host.Outcome State Fault Refusal :=
  .next (s.respond (.ok false ((subFault s.frame).setWidth 64) (some (faultText (subFault s.frame)))))

end Sys2Proof.Machine
end

