-- ==== Sys2Proof/Machine/Binary64.lean ====
section
/-! DEFINITION. IEEE 754 binary64 multiply, add and subtract, round to nearest, ties to even, on 64-bit patterns (00_scope R8,
42_linear_scale R126). Every finite binary64 is a whole number of units of `2 ^ (-1074)`, so an operation is: both operands to whole
units, the exact result as a fraction of units, one rounding. `one`, `mul` and `add` are irreducible to Lean's elaborator (not to its
kernel): a proof cites their lemmas or unfolds them by name, and never computes with them by accident. Signed zeros, infinities and NaN follow IEEE 754
(PRESUMED, log entry 13); no operation of the block meets an infinity or a NaN (60_exceptions R165). -/

namespace Sys2Proof.Machine.Binary64

/-- How many units of `2 ^ (-1074)` make 1. -/
@[irreducible] def one : Nat := 2 ^ 1074

/-- Bits 62 to 52, the biased exponent. -/
def expField (p : Word64) : Nat := (p.extractLsb' 52 11).toNat

/-- Bits 51 to 0, the fraction. -/
def fracField (p : Word64) : Nat := (p.extractLsb' 0 52).toNat

/-- Bit 63, the sign. -/
def sign (p : Word64) : Bool := p.msb

/-- The pattern is a finite number. -/
def isFinite (p : Word64) : Bool := expField p != 2047

/-- The pattern is a NaN. -/
def isNan (p : Word64) : Bool := expField p == 2047 && fracField p != 0

/-- The pattern is a zero of either sign. -/
def isZero (p : Word64) : Bool := expField p == 0 && fracField p == 0

/-- The integer significand: the fraction, with the hidden bit of a normal number. -/
def significand (p : Word64) : Nat :=
  if expField p = 0 then fracField p else 2 ^ 52 + fracField p

/-- The magnitude of a finite pattern in units. Exponent fields 0 and 1 share one scale. -/
def magUnits (p : Word64) : Nat := significand p * 2 ^ (expField p - 1)

/-- The value of a finite pattern in units. -/
def units (p : Word64) : Int := if sign p then -(magUnits p : Int) else magUnits p

/-- The rational value of a finite pattern. -/
def value (p : Word64) : Rat := (units p : Rat) / (one : Rat)

/-- The quotient of two naturals rounded to nearest, ties to even. -/
def roundDiv (num den : Nat) : Nat :=
  let k := num / den
  let r := num % den
  if 2 * r > den ∨ (2 * r = den ∧ k % 2 = 1) then k + 1 else k

/-- The binary64 magnitude nearest to `num / den` units, as the low 63 bits of a pattern; from the largest finite number's
rounding boundary on, infinity. `sh` is how many low bits the quotient has beyond the 53 of a significand. -/
def roundMag (num den : Nat) : Nat :=
  let sh := Nat.log2 (num / den) - 52
  min (sh * 2 ^ 52 + roundDiv num (den * 2 ^ sh)) (2047 * 2 ^ 52)

/-- A pattern from its sign and the low 63 bits. -/
def pack (neg : Bool) (mag : Nat) : Word64 :=
  BitVec.ofNat 64 ((if neg then 2 ^ 63 else 0) + mag)

/-- `b64(q)` for `q = num / den` (00_scope R8). -/
def ofFraction (num : Int) (den : Nat) : Word64 :=
  pack (decide (num < 0)) (roundMag (num.natAbs * one) den)

/-- `i2f(n)` (00_scope R8). -/
def ofInt (n : Int) : Word64 := ofFraction n 1

/-- Positive or negative infinity. -/
def infinity (neg : Bool) : Word64 := pack neg (2047 * 2 ^ 52)

/-- The quiet NaN an invalid operation returns; its payload is free. -/
def nan : Word64 := 0#1 ++ 2047#11 ++ 1#1 ++ Config.nanPayload

/-- The opposite sign. -/
def neg (p : Word64) : Word64 := p ^^^ (1#64 <<< 63)

/-- Multiply where an operand is not finite (IEEE 754). -/
def mulSpecial (a b : Word64) : Word64 :=
  if isNan a || isNan b || isZero a || isZero b then nan else infinity (sign a != sign b)

/-- Add where an operand is not finite (IEEE 754). -/
def addSpecial (a b : Word64) : Word64 :=
  if isNan a || isNan b then nan
  else if isFinite a then b
  else if isFinite b then a
  else if sign a = sign b then a else nan

/-- `a (*) b` (00_scope R8). -/
@[irreducible] def mul (a b : Word64) : Word64 :=
  if isFinite a && isFinite b then
    pack (sign a != sign b) (roundMag (magUnits a * magUnits b) one)
  else mulSpecial a b

/-- `a (+) b` (00_scope R8). An exact zero sum is +0, unless both operands are negative zeros. -/
@[irreducible] def add (a b : Word64) : Word64 :=
  if isFinite a && isFinite b then
    let n := units a + units b
    if n = 0 then pack (sign a && sign b) 0 else pack (decide (n < 0)) (roundMag n.natAbs 1)
  else addSpecial a b

/-- `a (-) b` (00_scope R8). -/
def sub (a b : Word64) : Word64 := add a (neg b)

end Sys2Proof.Machine.Binary64
end

