-- ==== Sys2Proof/Machine/Constants.lean ====
section
/-! DEFINITION. The constants of the scaler (42_linear_scale R126) and the two coefficient tables (43_polynomial R144, R147), each with
the document's literal and the binary64 pattern the spec gives for it. -/

namespace Sys2Proof.Machine

/-- `K_HOT_C`, `0.25`. -/
def kHotC : Constant := ⟨25, 2, 0x3FD0000000000000#64⟩

/-- `K_HOT_F`, `0.45`. -/
def kHotF : Constant := ⟨45, 2, 0x3FDCCCCCCCCCCCCD#64⟩

/-- `K_HOT_V`, `9.064`. -/
def kHotV : Constant := ⟨9064, 3, 0x402220C49BA5E354#64⟩

/-- `K_COLD_C`, `0.0625`. -/
def kColdC : Constant := ⟨625, 4, 0x3FB0000000000000#64⟩

/-- `K_COLD_F`, `0.1125`. -/
def kColdF : Constant := ⟨1125, 4, 0x3FBCCCCCCCCCCCCD#64⟩

/-- `K_F_OFF`, `32`. -/
def kFOff : Constant := ⟨32, 0, 0x4040000000000000#64⟩

/-- Table A in the order i = 1..10 (43_polynomial R144). -/
def tableA : List Constant :=
  [⟨25929394601, 9, 0x4039EDECCDF85FBC#64⟩,
   ⟨15710141880, 12, 0x3F901651C65C4868#64⟩,
   ⟨43825627237, 15, 0x3F06FA2D15EEEA6D#64⟩,
   ⟨-25261169794, 17, 0xBE90F3D5FF2D919C#64⟩,
   ⟨64311819339, 20, 0x3E0618ED6D94E4EB#64⟩,
   ⟨-10063471519, 22, 0xBD71B42F45C438E2#64⟩,
   ⟨99745338992, 26, 0x3CD1F7F11D3BEE69#64⟩,
   ⟨-60863245607, 29, 0xBC26745EFB49F08B#64⟩,
   ⟨20849229339, 32, 0x3B6F81A7A9B7B3CC#64⟩,
   ⟨-30682196151, 36, 0xBAA2FDC9BD602593#64⟩]

/-- Table B in the order i = 1..8 (43_polynomial R147). -/
def tableB : List Constant :=
  [⟨38783277, 9, 0x3FA3DB66D4B183D7#64⟩,
   ⟨-11612344, 13, 0xBEB37B76B9B213AB#64⟩,
   ⟨69525655, 18, 0x3DD31C6EDB15E3BC#64⟩,
   ⟨-30090077, 22, 0xBCEB1A4CA37E6018#64⟩,
   ⟨88311584, 27, 0x3BFA10A27710B4A9#64⟩,
   ⟨-16213839, 31, 0xBAFF5CB446272EE3#64⟩,
   ⟨16693362, 36, 0x39F5294E41D3A619#64⟩,
   ⟨-73117540, 42, 0xB8D84C27034555F2#64⟩]

end Sys2Proof.Machine
end

