-- ==== Sys2Proof/Machine/LinearScale.lean ====
section
/-! DEFINITION. The linear temperature scaler (42_linear_scale): COLDJ.C, COLDJ.F, HOTJ.C, HOTJ.F, HOTJ.V. -/

namespace Sys2Proof.Machine

/-- `i2f(code) (*) k`: one multiply (42_linear_scale R126). -/
def scale (code : Int) (k : Constant) : Word64 :=
  Binary64.mul (Binary64.ofInt code) k.bits

/-- `(i2f(code) (*) k) (+) K_F_OFF`: a multiply and an add with a rounding each (42_linear_scale R126). -/
def scaleF (code : Int) (k : Constant) : Word64 :=
  Binary64.add (scale code k) kFOff.bits

/-- COLDJ.C (42_linear_scale R121). -/
def execColdjC (s : State) : Host.Outcome State Fault Refusal :=
  .next (s.respondRes (scale (coldCode s.frame) kColdC))

/-- COLDJ.F (42_linear_scale R122). -/
def execColdjF (s : State) : Host.Outcome State Fault Refusal :=
  .next (s.respondRes (scaleF (coldCode s.frame) kColdF))

/-- HOTJ.C (42_linear_scale R123). -/
def execHotjC (s : State) : Host.Outcome State Fault Refusal :=
  .next (s.respondRes (scale (hotCode s.frame) kHotC))

/-- HOTJ.F (42_linear_scale R124): the document's constants, not a conversion of the Celsius result. -/
def execHotjF (s : State) : Host.Outcome State Fault Refusal :=
  .next (s.respondRes (scaleF (hotCode s.frame) kHotF))

/-- HOTJ.V (42_linear_scale R125): microvolts, whatever TCTYPE is. -/
def execHotjV (s : State) : Host.Outcome State Fault Refusal :=
  .next (s.respondRes (scale (hotCode s.frame) kHotV))

end Sys2Proof.Machine
end

