-- ==== Sys2Proof/Machine/Polynomial.lean ====
section
/-! DEFINITION. The ITS-90 polynomial evaluator, HOTJ.ADJ (43_polynomial). -/

namespace Sys2Proof.Machine

/-- The accumulator of Horner's method over coefficients in the order i = 1, 2, …: the last coefficient first, then for each
lower one a multiply and an add with a rounding each (43_polynomial R149). -/
def hornerAcc : List Word64 → Word64 → Word64
  | [], _ => 0#64
  | [a], _ => a
  | a :: b :: rest, t => Binary64.add (Binary64.mul (hornerAcc (b :: rest) t) t) a

/-- Horner's method with the final multiply: the polynomials have no constant term (43_polynomial R149). -/
def horner (table : List Constant) (t : Word64) : Word64 :=
  Binary64.mul (hornerAcc (table.map Constant.bits) t) t

/-- `HornerA(t)`, cjcVoltage from cjcTemp (43_polynomial R143, R149). -/
def hornerA (t : Word64) : Word64 := horner tableA t

/-- `HornerB(v)`, adjustedTemp from adjustedVoltage (43_polynomial R146, R149). -/
def hornerB (v : Word64) : Word64 := horner tableB v

/-- `t`, step 1: cjcTemp, the COLDJ.C result (43_polynomial R142). -/
def cjcTemp (f : Frame) : Word64 := scale (coldCode f) kColdC

/-- `va`, step 2: cjcVoltage (43_polynomial R143). -/
def cjcVoltage (f : Frame) : Word64 := hornerA (cjcTemp f)

/-- `v`, step 3: adjustedVoltage, the HOTJ.V result less cjcVoltage (43_polynomial R145). -/
def adjustedVoltage (f : Frame) : Word64 :=
  Binary64.sub (scale (hotCode f) kHotV) (cjcVoltage f)

/-- `ta`, step 4: adjustedTemp (43_polynomial R146). -/
def adjustedTemp (f : Frame) : Word64 := hornerB (adjustedVoltage f)

/-- Step 5, the result (43_polynomial R148, R150). -/
def adjustedResult (f : Frame) : Word64 :=
  Binary64.add (adjustedTemp f) (cjcTemp f)

/-- HOTJ.ADJ (43_polynomial R140): the type is tested first and alone decides the error (R141); an error response has no number. -/
def execHotjAdj (s : State) : Host.Outcome State Fault Refusal :=
  .next (match s.tctype with
    | .n => s.respondRes (adjustedResult s.frame)
    | ty => s.raiseError (.unsupportedConfiguration ty))

end Sys2Proof.Machine
end

