-- ==== Sys2Proof/Machine/Dispatch.lean ====
section
/-! DEFINITION. One instruction, one meaning. -/

namespace Sys2Proof.Machine

/-- What each operation does once its command word is accepted. -/
def exec (i : Instr) (s : State) : Host.Outcome State Fault Refusal :=
  match i with
  | .capture => Sys2Proof.Machine.execCapture s
  | .rawFrame => Sys2Proof.Machine.execRawFrame s
  | .faultDesc => Sys2Proof.Machine.execFaultDesc s
  | .coldjC => Sys2Proof.Machine.execColdjC s
  | .coldjF => Sys2Proof.Machine.execColdjF s
  | .hotjC => Sys2Proof.Machine.execHotjC s
  | .hotjF => Sys2Proof.Machine.execHotjF s
  | .hotjV => Sys2Proof.Machine.execHotjV s
  | .hotjAdj => Sys2Proof.Machine.execHotjAdj s

end Sys2Proof.Machine
end

