-- ==== Sys2Proof/Machine/Step.lean ====
section
/-! DEFINITION. The step in the host's view: each accepted operation is one step (40_capture R80, 20_memory R35, R36), and the placing
of a command word where the step takes its next one. -/

namespace Sys2Proof.Machine

/-- One step (see `stepWith`): an accepted CAPTURE runs whole, as 20_memory R35 says the host sees it. -/
def step (s : State) : Host.Outcome State Fault Refusal :=
  stepWith exec s

/-- `s` with a command word presented so that the very next step accepts it: the word comes first in the host's list, no reset event
is presented and no CAPTURE is running (20_memory R37). A command is one byte; the bits above it belong to no instruction. -/
def State.withFetchWord (s : State) (nbits w : Nat) : State :=
  { s with cmds := BitVec.ofNat 8 (w % 2 ^ nbits) :: s.cmds, rst := none, seq := .idle }

end Sys2Proof.Machine
end

