-- ==== Sys2Proof/Machine/Exact.lean ====
section
/-! DEFINITION. The exact layer (00_scope R8 a): the document's formulas read as mathematics over the rationals. It is normative for
what is computed; the binary64 layer is how the result port delivers it. -/

namespace Sys2Proof.Machine

/-- The rational a constant's literal spells (00_scope R8). -/
def literal (k : Constant) : Rat := (k.mant : Rat) / (10 : Rat) ^ k.scale

/-- `coeff[i] x t^i + coeff[i+1] x t^(i+1) + …` for a list of coefficients that begins at index i. -/
def powerSum : List Constant → Nat → Rat → Rat
  | [], _, _ => 0
  | a :: as, i, t => literal a * t ^ i + powerSum as (i + 1) t

/-- `PA(t)` (43_polynomial R143). -/
def polyA (t : Rat) : Rat := powerSum tableA 1 t

/-- `PB(v)` (43_polynomial R146). -/
def polyB (v : Rat) : Rat := powerSum tableB 1 v

/-- COLDJ.C of cold code c (42_linear_scale R121). -/
def exactColdC (c : Int) : Rat := c * literal kColdC

/-- COLDJ.F of cold code c (42_linear_scale R122). -/
def exactColdF (c : Int) : Rat := c * literal kColdF + literal kFOff

/-- HOTJ.C of hot code h (42_linear_scale R123). -/
def exactHotC (h : Int) : Rat := h * literal kHotC

/-- HOTJ.F of hot code h (42_linear_scale R124). -/
def exactHotF (h : Int) : Rat := h * literal kHotF + literal kFOff

/-- HOTJ.V of hot code h, in microvolts (42_linear_scale R125). -/
def exactHotV (h : Int) : Rat := h * literal kHotV

/-- `ADJ(h, c)`, steps 1 to 5 (43_polynomial R142 to R148). Step 3 subtracts (R145, 90_conflicts C1). -/
def exactAdj (h c : Int) : Rat :=
  polyB (exactHotV h - polyA (exactColdC c)) + exactColdC c

end Sys2Proof.Machine
end

