-- ==== Sys2Proof/Machine/LineStep.lean ====
section
/-! DEFINITION. The same machine in the lines' view (40_capture R90, R93): CAPTURE is accepted in one step and then runs as the
sequencer's micro-steps, so that every position of SEQ is passed through. All else is as in Step.lean. -/

namespace Sys2Proof.Machine

/-- What an accepted operation does in the lines' view: CAPTURE starts the sequencer (40_capture R90, row IDLE); every other operation
is one step. -/
def lineExec (i : Instr) (s : State) : Host.Outcome State Fault Refusal :=
  match i with
  | .capture => .next s.startCapture
  | .rawFrame => exec .rawFrame s
  | .faultDesc => exec .faultDesc s
  | .coldjC => exec .coldjC s
  | .coldjF => exec .coldjF s
  | .hotjC => exec .hotjC s
  | .hotjF => exec .hotjF s
  | .hotjV => exec .hotjV s
  | .hotjAdj => exec .hotjAdj s

/-- One step in the lines' view. -/
def lineStep (s : State) : Host.Outcome State Fault Refusal :=
  stepWith lineExec s

/-- `n` steps in the lines' view. -/
def lineRun : Nat → State → Host.Outcome State Fault Refusal
  | 0, s => .next s
  | n + 1, s =>
    match lineStep s with
    | .next t => lineRun n t
    | .fault r => .fault r
    | .refused r => .refused r

end Sys2Proof.Machine
end

