-- ==== Sys2Proof/Safety.lean ====
section
/-! DEFINITION. What a sound state of the block is: the levels of the two driven lines at every position of the sequencer, the part of SR
not yet sampled, the pin directions and binding, and the agreement of the latches with the last writes. -/

namespace Sys2Proof.Machine

/-- The levels of clock and chip-select at a sequencer position, before its row runs (40_capture R90; IDLE is the idle invariant of
10_state R16). -/
def linesAt : Seq → Level × Level
  | .idle => (.low, .high)
  | .sPre => (.low, .high)
  | .sCsLow => (.low, .high)
  | .sSettle => (.low, .low)
  | .sRise => (.low, .low)
  | .sSample => (.high, .low)
  | .sFall => (.high, .low)
  | .sCsHigh => (.low, .low)

/-- How many low bits of SR are still unsampled, hence zero, at a position (40_capture R85); none where SR means nothing. -/
def unsampled (s : State) : Nat :=
  match s.seq with
  | .idle => 0
  | .sPre => 0
  | .sCsLow => 32
  | .sSettle => 32
  | .sRise => s.bitIdx.toNat + 1
  | .sSample => s.bitIdx.toNat + 1
  | .sFall => s.bitIdx.toNat
  | .sCsHigh => 0

/-- The level last written to a line, if any. -/
def lastWrite (line : Line) : List PinEvent → Option Level
  | [] => none
  | e :: es =>
    match lastWrite line es with
    | some l => some l
    | none =>
      match e with
      | .write ln _ l => if ln = line then some l else none
      | .mode _ _ _ => none
      | .read _ _ => none
      | .delay _ => none

/-- A sound state. -/
structure Sound (s : State) : Prop where
  /-- Clock and chip-select stand at the level their position asks for (10_state R16, 40_capture R94 f). -/
  lines : (s.sckOut, s.csOut) = linesAt s.seq
  /-- Bits of SR not yet sampled are zero (40_capture R85). -/
  zeros : s.sr.toNat % 2 ^ unsampled s = 0
  /-- Serial-out is an input, the two driven lines are outputs (10_state R15, 70_reset R180). -/
  directions : s.soDir = .input ∧ s.sckDir = .output ∧ s.csDir = .output
  /-- The pins differ (10_state R13, 92_eei_decisions D21). -/
  binding : s.pins.distinct = true
  /-- SCK_OUT is the level last written to the clock line (10_state R15). -/
  clockLatch : lastWrite .sck s.trace = some s.sckOut
  /-- CS_OUT is the level last written to the chip-select line (10_state R15). -/
  selectLatch : lastWrite .cs s.trace = some s.csOut

/-- The platform calls made between `s` and `t`. -/
def newEvents (s t : State) : List PinEvent := t.trace.drop s.trace.length

end Sys2Proof.Machine
end

