-- ==== Sys2Proof/Certificates/Slice0/Obligations.lean ====
section
/-! DEFINITION. The statements for the provers. Each docstring names the rule of spec/ it rests on. -/

open Sys2Proof Sys2Proof.Machine

/-! ### Encoding -/

/-- The nine command words of 30_encoding R61, written out bit by bit from its field table, decode to their operations. The words
are the spec's own decision (92_eei_decisions D3). -/
def Obligations.CommandWordsDecode : Prop :=
  decode 0b00000100#8 = .ok .capture ∧ decode 0b00001000#8 = .ok .rawFrame ∧ decode 0b00001100#8 = .ok .faultDesc ∧
  decode 0b00010000#8 = .ok .coldjC ∧ decode 0b00010001#8 = .ok .coldjF ∧ decode 0b00010100#8 = .ok .hotjC ∧
  decode 0b00010101#8 = .ok .hotjF ∧ decode 0b00010110#8 = .ok .hotjV ∧ decode 0b00010111#8 = .ok .hotjAdj

/-- Decode and encode agree on whole programs, in both directions: a byte sequence decodes to a program exactly when it is the
program's encoding (30_encoding R61, R64, R67, R68). The words are the spec's own decision (D3). -/
def Obligations.ProgramsDecodeExactlyFromTheirEncoding : Prop :=
  ∀ (bytes : List Byte) (program : List Instr),
    decodeProgram bytes = .ok program ↔ bytes = program.map encode

/-- 60_exceptions R166: a command word that is not one of the nine gets the IllegalCommand response, which has no RES and no
VALID; nothing else changes and no pin event occurs. Accepting the word takes it from the host's list. The error class is the
spec's own decision (D10); that the word leaves the host's list (log entry 1), that the response has no RES and no VALID,
unspecified in the spec, and that its record keeps the word (log entry 9) are the model's choices. -/
def Obligations.ReservedWordIsIllegalCommand : Prop :=
  ∀ (s : State) (w : Byte) (rest : List Byte), s.rst = none → s.seq = .idle → s.cmds = w :: rest →
    w ∉ [0x04#8, 0x08#8, 0x0C#8, 0x10#8, 0x11#8, 0x14#8, 0x15#8, 0x16#8, 0x17#8] →
    ∃ r : Response, step s = .next { s with cmds := rest, responses := s.responses ++ [r] } ∧
      r = .error (.illegalCommand w) ∧ r.err = 2#2 ∧ r.res? = none ∧ r.valid? = none

/-! ### The step -/

/-- An idle block with no reset event runs the operation its command word decodes to. The host's list is the model's choice (log
entry 1). -/
def Obligations.StepRunsTheDecodedOperation : Prop :=
  ∀ (s : State) (w : Byte) (rest : List Byte) (i : Instr), s.rst = none → s.seq = .idle → s.cmds = w :: rest →
    decode w = .ok i → i.wf = true → step s = exec i { s with cmds := rest }

/-- A command word placed by `withFetchWord` is what the very next step runs, from every state. The host's list is the model's
choice (log entry 1). -/
def Obligations.PlacedWordRunsNext : Prop :=
  ∀ (s : State) (i : Instr), step (s.withFetchWord 8 (encode i).toNat) = exec i { s with rst := none, seq := .idle }

/-- An idle block without a command or a reset event stays as it is, in both views: the block never acts spontaneously
(60_exceptions R167). That such a step is a step at all is the model's choice (log entry 2). -/
def Obligations.QuietBlockStays : Prop :=
  ∀ s : State, s.rst = none → s.seq = .idle → s.cmds = [] → step s = .next s ∧ lineStep s = .next s

/-- 30_encoding R62, its last sentence, and 60_exceptions R170: one accepted command, legal or reserved, gives exactly one
response, with an ERR code from 0 to 2, and leaves the block idle with the next command up. The response format is the spec's own
decision (D6). -/
def Obligations.EveryCommandGetsOneResponse : Prop :=
  ∀ (s : State) (w : Byte) (rest : List Byte), s.rst = none → s.seq = .idle → s.cmds = w :: rest →
    ∃ (t : State) (r : Response), step s = .next t ∧ t.responses = s.responses ++ [r] ∧ r.err ≠ 3#2 ∧
      t.seq = .idle ∧ t.cmds = rest ∧ t.rst = none

/-- Every operation completes from every state: no operation faults, waits or is refused (60_exceptions R165, R171, 40_capture
R89). The number of responses counts the model's list of them (log entry 9). -/
def Obligations.EveryOperationCompletes : Prop :=
  ∀ (i : Instr) (s : State), ∃ t : State, exec i s = .next t ∧ t.responses.length = s.responses.length + 1

/-- A step stops only on a construct the spec tells a model to refuse: type code 7 or coinciding pins. The model's reading of
93_implementation_defined U11 and U14 (log entry 11). -/
def Obligations.OnlyARefusedConstructStops : Prop :=
  ∀ s : State,
    (∃ t, step s = .next t) ∨ (∃ a r, s.rst = some a ∧ a.wf = false ∧ step s = .refused r)

/-- 20_memory R35 and R37 with 10_state R18: while a CAPTURE runs no command is accepted; the list of commands is unchanged, and
until the last micro-step no response is given and FRAME keeps its value. Waiting while busy is the spec's own decision (D2). -/
def Obligations.BusyBlockHoldsCommands : Prop :=
  ∀ s : State, s.rst = none → s.seq ≠ .idle →
    ∃ t : State, step s = .next t ∧ lineStep s = .next t ∧ t.cmds = s.cmds ∧
      (t.seq ≠ .idle → t.frame = s.frame ∧ t.responses = s.responses)

/-! ### CAPTURE -/

/-- 20_memory R33 and 40_capture R88: the level of the k-th clock pulse is recorded at Frame bit 31 - k, and VALID is the opposite
of bit 16 of the frame just captured. CAPTURE completes from every state, whatever the line shows. The levels come from the
model's line (log entry 4). -/
def Obligations.CaptureStoresTheSamples : Prop :=
  ∀ s : State, ∃ t : State, exec .capture s = .next t ∧
    (∀ k, k < 32 → t.frame.getLsbD (31 - k) = decide (s.draw k = .high)) ∧
    t.responses = s.responses ++ [.ok (!t.frame.getLsbD 16) 0#64 none] ∧
    t.sckOut = .low ∧ t.csOut = .high ∧ t.seq = .idle

/-- The frame of CAPTURE: beside FRAME it changes the accumulator and the bit counter, the two line levels, the sequencer, what is
left of the line, and the two logs; nothing else (40_capture R80, 10_state R11, R13). BITIDX and SR after CAPTURE are the model's
reading (log entry 3). -/
def Obligations.CaptureLeavesTheRest : Prop :=
  ∀ s t : State, exec .capture s = .next t →
    t = { s with
      frame := t.frame, sr := t.frame, bitIdx := 0#5, sckOut := .low, csOut := .high, seq := .idle,
      soLine := s.soLine.drop 32, soReads := s.soReads + 32, trace := t.trace, responses := t.responses }

/-- CAPTURE reads neither the old FRAME nor TCTYPE, SR, BITIDX or SEQ (40_capture R80): on two states that differ in these alone it
stores the same frame, gives the same response and causes the same pin events. -/
def Obligations.CaptureIgnoresOldFrameAndType : Prop :=
  ∀ (s : State) (f : Frame) (ty : ThermocoupleType) (sr : BitVec 32) (b : BitVec 5) (q : Seq),
    ∃ t u : State, exec .capture s = .next t ∧
      exec .capture { s with frame := f, tctype := ty, sr := sr, bitIdx := b, seq := q } = .next u ∧
      u.frame = t.frame ∧ u.responses = t.responses ∧ u.trace = t.trace

/-- 40_capture R85: the accumulator starts at zero, recording a level touches no bit but its own, after the loop SR[i] is 1 iff
sample 31 - i was HIGH, and the shift-register form gives the same value. The accumulator is the spec's own decision (D12) and the
last clause its own inference. -/
def Obligations.AccumulatorRecordsEachSample : Prop :=
  (∀ s : State, s.beginCapture.sr = 0#32) ∧
  (∀ (sr : BitVec 32) (i : BitVec 5) (l : Level) (j : Nat), j < 32 →
    (recordLevel sr i l).getLsbD j = if j = i.toNat then (sr.getLsbD j || decide (l = .high)) else sr.getLsbD j) ∧
  (∀ (s : State) (i : Nat), i < 32 →
    (State.captureLoop 32 s.beginCapture).sr.getLsbD i = decide (s.draw (31 - i) = .high)) ∧
  (∀ s : State, (State.captureLoop 32 s.beginCapture).sr =
    (s.levels 32).foldl (fun (sr : BitVec 32) (b : Level) => (sr <<< 1) ||| (if b = .high then 1#32 else 0#32)) 0#32)

/-- 40_capture R91: the trace of a CAPTURE, its counts (100 events: 67 writes, 32 reads, 1 delay; 64 more delays when both clock
delays are non-zero), and no pin event in any other command or without a command. The rule is the spec's own inference; the places
of the delays are its decision (D14). -/
def Obligations.CaptureTraceIsExact : Prop :=
  (∀ s : State, ∃ t, exec .capture s = .next t ∧ t.trace =
    s.trace ++ captureEvents s.pins Config.settleUs Config.clkHighUs Config.clkLowUs (s.levels 32)) ∧
  (∀ (p : PinBinding) (settle : Nat) (ls : List Level), ls.length = 32 →
    (captureEvents p settle 0 0 ls).length = 100 ∧
    (captureEvents p settle 0 0 ls).countP (fun e => match e with | .write _ _ _ => true | _ => false) = 67 ∧
    (captureEvents p settle 0 0 ls).countP (fun e => match e with | .read _ _ => true | _ => false) = 32 ∧
    (captureEvents p settle 0 0 ls).countP (fun e => match e with | .delay _ => true | _ => false) = 1) ∧
  (∀ (p : PinBinding) (settle hi lo : Nat) (ls : List Level), ls.length = 32 → hi ≠ 0 → lo ≠ 0 →
    (captureEvents p settle hi lo ls).length = 164) ∧
  (∀ s t : State, s.rst = none → s.seq = .idle → s.cmds.head? ≠ some 0x04#8 → step s = .next t → t.trace = s.trace)

/-- 40_capture R94 (a) to (d): a line stuck LOW, a line stuck HIGH, only sample 15 HIGH; and a second CAPTURE leaves nothing of
the first frame. The rule is the spec's own inference. -/
def Obligations.CaptureCornerCases : Prop :=
  ∀ s : State,
    ((∀ k, k < 32 → s.draw k = .low) → ∃ t, exec .capture s = .next t ∧ t.frame = 0x00000000#32 ∧
      t.responses = s.responses ++ [.ok true 0#64 none] ∧ hotCode t.frame = 0 ∧ coldCode t.frame = 0) ∧
    ((∀ k, k < 32 → s.draw k = .high) → ∃ t, exec .capture s = .next t ∧ t.frame = 0xFFFFFFFF#32 ∧
      t.responses = s.responses ++ [.ok false 0#64 none] ∧ subFault t.frame = 7#3 ∧
      hotCode t.frame = -1 ∧ coldCode t.frame = -1) ∧
    ((∀ k, k < 32 → s.draw k = if k = 15 then .high else .low) → ∃ t, exec .capture s = .next t ∧
      t.frame = 0x00010000#32 ∧ t.responses = s.responses ++ [.ok false 0#64 none] ∧
      faultText (subFault t.frame) = []) ∧
    (∀ t, exec .capture s = .next t → ∃ u v, exec .capture t = .next u ∧
      exec .capture { t with frame := 0#32 } = .next v ∧ u.frame = v.frame)

/-- 40_capture R93: the atomic form and the micro-step form of CAPTURE give the same state after the same samples: the same FRAME,
VALID, pin levels and event trace (and the same everything else). The micro-steps are the spec's own decision (D13), the agreement
its own inference; that SR and BITIDX agree too is the model's reading (log entry 3). -/
def Obligations.MicroStepsRefineAtomicCapture : Prop :=
  ∀ (s : State) (rest : List Byte), s.rst = none → s.seq = .idle → s.cmds = 0x04#8 :: rest →
    lineRun 101 s = step s ∧ step s = exec .capture { s with cmds := rest }

/-- 40_capture R90: each row of the sequencer's table is one step in the lines' view; a CAPTURE is 101 steps from acceptance to
the return to IDLE and is nowhere stuck. The table is the spec's own decision (D13). -/
def Obligations.SequencerFollowsItsTable : Prop :=
  (∀ (s : State) (rest : List Byte), s.rst = none → s.seq = .idle → s.cmds = 0x04#8 :: rest →
    lineStep s = .next { s with cmds := rest, seq := .sPre }) ∧
  (∀ s : State, s.rst = none → s.seq = .sPre →
    lineStep s = .next { s with
      sckOut := .low, sr := 0#32, trace := s.trace ++ [.write .sck s.pins.sck .low], seq := .sCsLow }) ∧
  (∀ s : State, s.rst = none → s.seq = .sCsLow →
    lineStep s = .next { s with csOut := .low, trace := s.trace ++ [.write .cs s.pins.cs .low], seq := .sSettle }) ∧
  (∀ s : State, s.rst = none → s.seq = .sSettle →
    lineStep s = .next { s with bitIdx := 31#5, trace := s.trace ++ [.delay Config.settleUs], seq := .sRise }) ∧
  (∀ s : State, s.rst = none → s.seq = .sRise →
    lineStep s = .next { s with
      sckOut := .high, seq := .sSample
      trace := s.trace ++ [.write .sck s.pins.sck .high] ++ clockDelayEvents Config.clkHighUs }) ∧
  (∀ s : State, s.rst = none → s.seq = .sSample →
    lineStep s = .next { s with
      sr := recordLevel s.sr s.bitIdx (s.draw 0), soLine := s.soLine.tail, soReads := s.soReads + 1
      trace := s.trace ++ [.read s.pins.so (s.draw 0)], seq := .sFall }) ∧
  (∀ s : State, s.rst = none → s.seq = .sFall → s.bitIdx ≠ 0#5 →
    lineStep s = .next { s with
      sckOut := .low, bitIdx := s.bitIdx - 1#5, seq := .sRise
      trace := s.trace ++ [.write .sck s.pins.sck .low] ++ clockDelayEvents Config.clkLowUs }) ∧
  (∀ s : State, s.rst = none → s.seq = .sFall → s.bitIdx = 0#5 →
    lineStep s = .next { s with
      sckOut := .low, seq := .sCsHigh
      trace := s.trace ++ [.write .sck s.pins.sck .low] ++ clockDelayEvents Config.clkLowUs }) ∧
  (∀ s : State, s.rst = none → s.seq = .sCsHigh →
    lineStep s = .next { s with
      csOut := .high, frame := s.sr, seq := .idle
      trace := s.trace ++ [.write .cs s.pins.cs .high]
      responses := s.responses ++ [.ok (!s.sr.getLsbD 16) 0#64 none] }) ∧
  (∀ (s : State) (rest : List Byte), s.rst = none → s.seq = .idle → s.cmds = 0x04#8 :: rest →
    (∃ t, lineRun 101 s = .next t ∧ t.seq = .idle) ∧
    ∀ n, 1 ≤ n → n < 101 → ∃ t, lineRun n s = .next t ∧ t.seq ≠ .idle)

/-- A running CAPTURE comes back to IDLE after exactly the remaining number of micro-steps, from every state, whatever the line shows:
it can neither be stalled nor cut short, and FRAME and the responses change only at the last one (40_capture R89, R87, 20_memory R37). -/
def Obligations.RunningCaptureAlwaysEnds : Prop :=
  ∀ s : State, s.rst = none → s.seq ≠ .idle →
    (∃ t, lineRun s.remaining s = .next t ∧ t.seq = .idle ∧ t.cmds = s.cmds ∧
      t.responses.length = s.responses.length + 1) ∧
    ∀ n, n < s.remaining →
      ∃ u, lineRun n s = .next u ∧ u.seq ≠ .idle ∧ u.cmds = s.cmds ∧ u.frame = s.frame ∧ u.responses = s.responses

/-! ### The lines and the sound states -/

/-- The state after reset is sound. Sound is the model's own predicate (Safety.lean); that the pins of the reset state differ is
log entry 7. -/
def Obligations.ResetIsSound : Prop := Sound State.reset

/-- Every step in the host's view keeps a sound state sound (10_state R15, R16; 40_capture R85; 92_eei_decisions D21). Sound is
the model's own predicate (Safety.lean). -/
def Obligations.EveryStepKeepsSound : Prop :=
  ∀ s t : State, Sound s → step s = .next t → Sound t

/-- Every step in the lines' view, through every position of the sequencer, keeps a sound state sound. Sound is the model's own
predicate (Safety.lean). -/
def Obligations.EveryLineStepKeepsSound : Prop :=
  ∀ s t : State, Sound s → lineStep s = .next t → Sound t

/-- 10_state R16: in IDLE the clock is LOW and chip-select HIGH; and 40_capture R93's example: chip-select is low whenever the
clock is high. Both are the spec's own inferences. -/
def Obligations.ClockHighOnlyUnderChipSelect : Prop :=
  ∀ s : State, Sound s →
    (s.seq = .idle → s.sckOut = .low ∧ s.csOut = .high) ∧ (s.sckOut = .high → s.csOut = .low)

/-- 40_capture R94 (f), over every micro-step: chip-select is LOW at every clock rise and at every read, the clock is LOW at every
chip-select write, and HIGH at every read. The rule is the spec's own inference. -/
def Obligations.LineEventsKeepTheirOrder : Prop :=
  ∀ s t : State, Sound s → s.rst = none → s.seq ≠ .idle → lineStep s = .next t →
    ∀ e, e ∈ newEvents s t →
      (∀ p, e = .write .sck p .high → s.csOut = .low ∧ t.csOut = .low) ∧
      (∀ p l, e = .read p l → s.sckOut = .high ∧ t.sckOut = .high ∧ s.csOut = .low ∧ t.csOut = .low) ∧
      (∀ p l, e = .write .cs p l → s.sckOut = .low ∧ t.sckOut = .low)

/-! ### Construct, configuration, frame -/

/-- 70_reset R181 with R180 and R183: construct, presented in any state, leaves these values; the three registers the spec leaves
unspecified hold free values of this construct (log entries 5 and 6); no response is given. That the pending commands stay is the
model's choice (log entry 11). -/
def Obligations.ConstructLeavesTheResetState : Prop :=
  ∀ (s : State) (a : ConstructArgs), s.rst = some a → a.typeCode ≠ 7#3 → a.pins.distinct = true →
    ∃ t : State, step s = .next t ∧ lineStep s = .next t ∧
      t.sckOut = .low ∧ t.csOut = .high ∧ t.soDir = .input ∧ t.tctype.code = a.typeCode ∧ t.pins = a.pins ∧
      t.seq = .idle ∧ t.frame = Config.frameReset s.constructs ∧ t.sr = Config.srReset s.constructs ∧
      t.bitIdx = Config.bitIdxReset s.constructs ∧ t.responses = s.responses ∧ t.cmds = s.cmds ∧ t.rst = none

/-- 70_reset R180: the five pin calls of construct, chip-select first (the order is the spec's own choice, 92_eei_decisions D1), and no
transaction on the lines. -/
def Obligations.ConstructMakesFivePinCalls : Prop :=
  ∀ (s : State) (a : ConstructArgs), s.rst = some a → a.typeCode ≠ 7#3 → a.pins.distinct = true →
    ∃ t : State, step s = .next t ∧ newEvents s t =
      [.mode .cs a.pins.cs .output, .write .cs a.pins.cs .high, .mode .sck a.pins.sck .output,
       .write .sck a.pins.sck .low, .mode .so a.pins.so .input]

/-- Construct refuses type code 7 (10_state R14, 30_encoding R59) and, with a type it knows, coinciding pins (92_eei_decisions
D21). Which of the two reasons comes first is the model's choice (log entry 11). -/
def Obligations.ConstructRefusesReservedArguments : Prop :=
  ∀ (s : State) (a : ConstructArgs), s.rst = some a →
    (a.typeCode = 7#3 → step s = .refused .reservedThermocoupleType) ∧
    (a.typeCode ≠ 7#3 → (a.pins.so = a.pins.sck ∨ a.pins.so = a.pins.cs ∨ a.pins.sck = a.pins.cs) →
      step s = .refused .coincidentPins)

/-- 10_state R13 and 70_reset R183: no operation and no micro-step changes the type, the pins or the directions; only a construct
does. -/
def Obligations.ConfigurationNeverChanges : Prop :=
  ∀ s t : State, s.rst = none → (step s = .next t ∨ lineStep s = .next t) →
    t.tctype = s.tctype ∧ t.pins = s.pins ∧ t.soDir = s.soDir ∧ t.sckDir = s.sckDir ∧ t.csDir = s.csDir ∧
      t.constructs = s.constructs

/-- 10_state R11: FRAME is written by CAPTURE alone, in both views. -/
def Obligations.OnlyCaptureWritesFrame : Prop :=
  (∀ s t : State, s.rst = none → s.seq = .idle → s.cmds.head? ≠ some 0x04#8 →
    (step s = .next t ∨ lineStep s = .next t) → t.frame = s.frame) ∧
  (∀ s t : State, s.rst = none → s.seq ≠ .idle → s.seq ≠ .sCsHigh → (step s = .next t ∨ lineStep s = .next t) →
    t.frame = s.frame)

/-- 20_memory R39: the eight decode operations complete, write no state, cause no pin event, and repeated give the same response:
all they change is the list of responses. The list of responses is the model's (log entry 9). -/
def Obligations.DecodeOperationsAreRepeatable : Prop :=
  ∀ (i : Instr) (s : State), i ≠ .capture → ∃ r : Response,
    exec i s = .next { s with responses := s.responses ++ [r] } ∧
    exec i { s with responses := s.responses ++ [r] } = .next { s with responses := s.responses ++ [r, r] }

/-- 10_state R14: CAPTURE, RAWFRAME, FAULTDESC, COLDJ.C, COLDJ.F, HOTJ.C, HOTJ.F and HOTJ.V behave identically under all seven types. -/
def Obligations.TypeMattersToHotjAdjOnly : Prop :=
  ∀ (i : Instr) (s : State) (ty : ThermocoupleType), i ≠ .hotjAdj →
    ∃ t : State, exec i s = .next t ∧ exec i { s with tctype := ty } = .next { t with tctype := ty }

/-- 10_state R21: outputs are transient. What was answered and which pin events occurred before has no effect on an operation: it
adds the same response and the same events and changes the rest alike. That outputs are no state is the spec's own decision (D6).
-/
def Obligations.EarlierOutputsLeaveNoTrace : Prop :=
  ∀ (i : Instr) (s : State) (rs : List Response) (es : List PinEvent), ∃ (t : State) (r : Response),
    exec i s = .next t ∧ t.responses = s.responses ++ [r] ∧ t.trace = s.trace ++ newEvents s t ∧
    exec i { s with responses := rs, trace := es } =
      .next { t with responses := rs ++ [r], trace := es ++ newEvents s t }

/-! ### Field extraction -/

/-- 41_field_extract R101: the hot code, as arithmetic on the unsigned frame, its range, the arithmetic shift, and that bits 17 to 0
do not matter. -/
def Obligations.HotCodeIsSignedTopField : Prop :=
  ∀ f : Frame,
    hotCode f = (if f.toNat >>> 18 < 8192 then ((f.toNat >>> 18 : Nat) : Int) else ((f.toNat >>> 18 : Nat) : Int) - 16384) ∧
    -8192 ≤ hotCode f ∧ hotCode f ≤ 8191 ∧ hotCode f = asr32 f 18 ∧
    ∀ g : Frame, (∀ i, 18 ≤ i → i < 32 → g.getLsbD i = f.getLsbD i) → hotCode g = hotCode f

/-- 41_field_extract R102: the cold code likewise; bits 31 to 16 and 3 to 0 do not matter, and a bare shift of the frame is not it. -/
def Obligations.ColdCodeIsSignedMaskedField : Prop :=
  (0x00010000#32 >>> 4).toInt ≠ coldCode 0x00010000#32 ∧
  ∀ f : Frame,
    coldCode f = (if (f.toNat >>> 4) % 4096 < 2048 then (((f.toNat >>> 4) % 4096 : Nat) : Int)
      else (((f.toNat >>> 4) % 4096 : Nat) : Int) - 4096) ∧
    -2048 ≤ coldCode f ∧ coldCode f ≤ 2047 ∧
    ∀ g : Frame, (∀ i, 4 ≤ i → i < 16 → g.getLsbD i = f.getLsbD i) → coldCode g = coldCode f

/-- 41_field_extract R103: both ways to sign-extend a sub-field give the same integer for every frame. The rule is the spec's own
inference. -/
def Obligations.SignExtensionFormsAgree : Prop :=
  ∀ f : Frame, hotCode f = asr32 f 18 ∧ coldCode f = asr32 (f <<< 16) 20 ∧
    hotCode f = ((f.toNat / 2 ^ 18 : Nat) : Int) - (if f.getLsbD 31 then 2 ^ 14 else 0) ∧
    coldCode f = ((f.toNat / 2 ^ 4 % 2 ^ 12 : Nat) : Int) - (if f.getLsbD 15 then 2 ^ 12 else 0)

/-- 95_test_vectors S4, from R101 and R102: the round trip over the full range of both codes, whatever the other bits. -/
def Obligations.CodesRoundTrip : Prop :=
  (∀ (h : Int) (x : Nat), -8192 ≤ h → h ≤ 8191 → x < 2 ^ 18 →
    hotCode (BitVec.ofNat 32 ((h % 16384).toNat * 2 ^ 18 + x)) = h) ∧
  (∀ (c : Int) (y z : Nat), -2048 ≤ c → c ≤ 2047 → y < 2 ^ 16 → z < 16 →
    coldCode (BitVec.ofNat 32 (y * 65536 + (c % 4096).toNat * 16 + z)) = c)

/-- 41_field_extract R100: RAWFRAME returns the stored frame verbatim in RES[31:0], zero in RES[63:32], under every type, and
before the first CAPTURE it returns FRAME_RESET. The width of RES is the spec's own decision (D6). -/
def Obligations.RawFrameReturnsFrame : Prop :=
  decode 0x08#8 = .ok .rawFrame ∧
  (∀ s : State, ∃ p : Word64,
    exec .rawFrame s = .next { s with responses := s.responses ++ [.ok false p none] } ∧
    p.extractLsb' 0 32 = s.frame ∧ p.extractLsb' 32 32 = 0#32) ∧
  exec .rawFrame State.reset =
    .next { State.reset with responses := [.ok false ((Config.frameReset 0).setWidth 64) none] }

/-- 41_field_extract R106 and R108: FAULTDESC answers FRAME[2:0] and its text and changes nothing else; both depend on bits 2 to 0
of FRAME alone, not on bit 16 and not on the type, as R108's three frames show. -/
def Obligations.FaultDescReadsThreeBits : Prop :=
  (∀ s : State, exec .faultDesc s = .next { s with
    responses := s.responses ++ [.ok false ((s.frame.extractLsb' 0 3).setWidth 64) (some (faultText (s.frame.extractLsb' 0 3)))] }) ∧
  (∀ s t u : State, (∀ i, i < 3 → s.frame.getLsbD i = t.frame.getLsbD i) → s.responses = [] → t.responses = [] →
    exec .faultDesc s = .next u → ∃ v, exec .faultDesc t = .next v ∧ v.responses = u.responses) ∧
  faultText (subFault 0x00010000#32) = [] ∧
  faultText (subFault 0x00000007#32) = asciiText "Open Circuit Short to GND Short to Vcc " ∧
  faultText (subFault 0xFFFFFFF8#32) = []

/-- 41_field_extract R107: the eight texts with their lengths; every text that is not empty ends in a space. -/
def Obligations.FaultTextTable : Prop :=
  faultText 0b000#3 = asciiText "" ∧
  faultText 0b001#3 = asciiText "Open Circuit " ∧
  faultText 0b010#3 = asciiText "Short to GND " ∧
  faultText 0b011#3 = asciiText "Open Circuit Short to GND " ∧
  faultText 0b100#3 = asciiText "Short to Vcc " ∧
  faultText 0b101#3 = asciiText "Open Circuit Short to Vcc " ∧
  faultText 0b110#3 = asciiText "Short to GND Short to Vcc " ∧
  faultText 0b111#3 = asciiText "Open Circuit Short to GND Short to Vcc " ∧
  (faultText 0b000#3).length = 0 ∧ (faultText 0b001#3).length = 13 ∧ (faultText 0b010#3).length = 13 ∧
  (faultText 0b011#3).length = 26 ∧ (faultText 0b100#3).length = 13 ∧ (faultText 0b101#3).length = 26 ∧
  (faultText 0b110#3).length = 26 ∧ (faultText 0b111#3).length = 39 ∧
  ∀ s : BitVec 3, s ≠ 0#3 → (faultText s).getLast? = some 0x20#8

/-! ### Binary64 -/

/-- 00_scope R8 (b): multiply, add and subtract of finite operands give the binary64 value nearest the exact rational result, a
tie going to the even significand; and they are claimed to stay finite only while the exact result is below 2^1023 in magnitude.
The number format is the spec's own decision (D7; log entry 18). -/
def Obligations.ArithmeticIsCorrectlyRounded : Prop :=
  ∀ a b : Word64, Binary64.isFinite a = true → Binary64.isFinite b = true →
    ∀ (q : Rat) (r : Word64),
      (q = Binary64.value a * Binary64.value b ∧ r = Binary64.mul a b ∨
       q = Binary64.value a + Binary64.value b ∧ r = Binary64.add a b ∨
       q = Binary64.value a - Binary64.value b ∧ r = Binary64.sub a b) →
      (|q| < 2 ^ 1023 → Binary64.isFinite r = true) ∧
      (Binary64.isFinite r = true → ∀ p : Word64, Binary64.isFinite p = true →
        |Binary64.value r - q| ≤ |Binary64.value p - q| ∧
        (|Binary64.value r - q| = |Binary64.value p - q| → Binary64.value p ≠ Binary64.value r → r.getLsbD 0 = false))

/-- 42_linear_scale R126, 43_polynomial R144 and R147: each pattern of the three tables is the binary64 number nearest its
literal. The patterns are the spec's own decision (D7). -/
def Obligations.TablePatternsAreNearestToLiterals : Prop :=
  ∀ k : Constant, k ∈ [kHotC, kHotF, kHotV, kColdC, kColdF, kFOff] ++ tableA ++ tableB →
    Binary64.ofFraction k.mant (10 ^ k.scale) = k.bits

/-! ### The linear scaler -/

/-- 42_linear_scale R121: COLDJ.C completes and gives cold code / 16 exactly, +0.0 for code 0, with the corner patterns. The
binary64 layer is the spec's own decision (D7; log entry 18). -/
def Obligations.ColdCelsiusIsExact : Prop :=
  decode 0x10#8 = .ok .coldjC ∧
  ∀ s : State, ∃ p : Word64, exec .coldjC s = .next { s with responses := s.responses ++ [.ok false p none] } ∧
    p = Binary64.mul (Binary64.ofInt (coldCode s.frame)) 0x3FB0000000000000#64 ∧
    Binary64.isFinite p = true ∧ Binary64.value p = coldCode s.frame / 16 ∧
    -128 ≤ Binary64.value p ∧ Binary64.value p ≤ 2047 / 16 ∧
    (coldCode s.frame = 0 → p = 0x0000000000000000#64) ∧
    (coldCode s.frame = -2048 → p = 0xC060000000000000#64) ∧ (coldCode s.frame = 2047 → p = 0x405FFC0000000000#64) ∧
    (s.frame = 0x00000100#32 → p = 0x3FF0000000000000#64)

/-- 42_linear_scale R122: COLDJ.F completes with a multiply and an add, within 2^-44 of code x 9/80 + 32, with the corner
patterns. The binary64 layer is the spec's own decision (D7; log entry 18). -/
def Obligations.ColdFahrenheitIsClose : Prop :=
  decode 0x11#8 = .ok .coldjF ∧
  ∀ s : State, ∃ p : Word64, exec .coldjF s = .next { s with responses := s.responses ++ [.ok false p none] } ∧
    p = Binary64.add (Binary64.mul (Binary64.ofInt (coldCode s.frame)) 0x3FBCCCCCCCCCCCCD#64) 0x4040000000000000#64 ∧
    Binary64.isFinite p = true ∧ |Binary64.value p - (coldCode s.frame * (9 / 80) + 32)| < 1 / 2 ^ 44 ∧
    -(1984 / 10) ≤ (coldCode s.frame * (9 / 80) + 32 : Rat) ∧ (coldCode s.frame * (9 / 80) + 32 : Rat) ≤ 2622875 / 10000 ∧
    (coldCode s.frame = 0 → p = 0x4040000000000000#64) ∧
    (coldCode s.frame = -2048 → p = 0xC068CCCCCCCCCCCD#64) ∧ (coldCode s.frame = 2047 → p = 0x407064999999999A#64) ∧
    (s.frame = 0x00001900#32 → p = 0x4053400000000000#64)

/-- 42_linear_scale R123: HOTJ.C completes and gives hot code / 4 exactly, +0.0 for code 0, with the corner patterns. The binary64
layer is the spec's own decision (D7; log entry 18). -/
def Obligations.HotCelsiusIsExact : Prop :=
  decode 0x14#8 = .ok .hotjC ∧
  ∀ s : State, ∃ p : Word64, exec .hotjC s = .next { s with responses := s.responses ++ [.ok false p none] } ∧
    p = Binary64.mul (Binary64.ofInt (hotCode s.frame)) 0x3FD0000000000000#64 ∧
    Binary64.isFinite p = true ∧ Binary64.value p = hotCode s.frame / 4 ∧
    -2048 ≤ Binary64.value p ∧ Binary64.value p ≤ 204775 / 100 ∧
    (hotCode s.frame = 0 → p = 0x0000000000000000#64) ∧
    (hotCode s.frame = -8192 → p = 0xC0A0000000000000#64) ∧ (hotCode s.frame = 8191 → p = 0x409FFF0000000000#64) ∧
    (s.frame = 0x00100000#32 → p = 0x3FF0000000000000#64) ∧ (s.frame = 0xFFF00000#32 → p = 0xBFF0000000000000#64)

/-- 42_linear_scale R124: HOTJ.F completes with a multiply and an add of the document's own constants, within 2^-40 of code x 9/20
+ 32, with the corner patterns. The binary64 layer is the spec's own decision (D7; log entry 18). -/
def Obligations.HotFahrenheitIsClose : Prop :=
  decode 0x15#8 = .ok .hotjF ∧
  ∀ s : State, ∃ p : Word64, exec .hotjF s = .next { s with responses := s.responses ++ [.ok false p none] } ∧
    p = Binary64.add (Binary64.mul (Binary64.ofInt (hotCode s.frame)) 0x3FDCCCCCCCCCCCCD#64) 0x4040000000000000#64 ∧
    Binary64.isFinite p = true ∧ |Binary64.value p - (hotCode s.frame * (9 / 20) + 32)| < 1 / 2 ^ 40 ∧
    -(36544 / 10) ≤ (hotCode s.frame * (9 / 20) + 32 : Rat) ∧ (hotCode s.frame * (9 / 20) + 32 : Rat) ≤ 371795 / 100 ∧
    (hotCode s.frame = 0 → p = 0x4040000000000000#64) ∧
    (hotCode s.frame = -8192 → p = 0xC0AC8CCCCCCCCCCD#64) ∧ (hotCode s.frame = 8191 → p = 0x40AD0BE666666667#64) ∧
    (hotCode s.frame = 400 → p = 0x406A800000000000#64) ∧ (hotCode s.frame = 4 → p = 0x4040E66666666666#64)

/-- 42_linear_scale R125: HOTJ.V completes under every type with one multiply, within 2^-36 of code x 1133/125 microvolts, with
the corner patterns. The binary64 layer is the spec's own decision (D7; log entry 18). -/
def Obligations.HotVoltageIsClose : Prop :=
  decode 0x16#8 = .ok .hotjV ∧
  ∀ s : State, ∃ p : Word64, exec .hotjV s = .next { s with responses := s.responses ++ [.ok false p none] } ∧
    p = Binary64.mul (Binary64.ofInt (hotCode s.frame)) 0x402220C49BA5E354#64 ∧
    Binary64.isFinite p = true ∧ |Binary64.value p - hotCode s.frame * (1133 / 125)| < 1 / 2 ^ 36 ∧
    -(74252288 / 1000) ≤ (hotCode s.frame * (1133 / 125) : Rat) ∧ (hotCode s.frame * (1133 / 125) : Rat) ≤ 74243224 / 1000 ∧
    (hotCode s.frame = 0 → p = 0x0000000000000000#64) ∧
    (hotCode s.frame = -8192 → p = 0xC0F220C49BA5E354#64) ∧ (hotCode s.frame = 8191 → p = 0x40F2203395810625#64) ∧
    (hotCode s.frame = 400 → p = 0x40AC533333333333#64) ∧ (hotCode s.frame = 4 → p = 0x404220C49BA5E354#64)

/-- 42_linear_scale R127, in the binary64 layer: each linear operation is strictly increasing in its code, and every result is 0
or greater than 2^-5 in magnitude. The rule is the spec's own inference. -/
def Obligations.LinearResultsAreOrdered : Prop :=
  (∀ c : Int, -2048 ≤ c → c ≤ 2047 →
    (c < 2047 → Binary64.value (scale c kColdC) < Binary64.value (scale (c + 1) kColdC) ∧
      Binary64.value (scaleF c kColdF) < Binary64.value (scaleF (c + 1) kColdF)) ∧
    (Binary64.value (scale c kColdC) = 0 ∨ 1 / 2 ^ 5 < |Binary64.value (scale c kColdC)|) ∧
    1 / 2 ^ 5 < |Binary64.value (scaleF c kColdF)|) ∧
  (∀ h : Int, -8192 ≤ h → h ≤ 8191 →
    (h < 8191 → Binary64.value (scale h kHotC) < Binary64.value (scale (h + 1) kHotC) ∧
      Binary64.value (scaleF h kHotF) < Binary64.value (scaleF (h + 1) kHotF) ∧
      Binary64.value (scale h kHotV) < Binary64.value (scale (h + 1) kHotV)) ∧
    (Binary64.value (scale h kHotC) = 0 ∨ 1 / 2 ^ 5 < |Binary64.value (scale h kHotC)|) ∧
    1 / 2 ^ 5 < |Binary64.value (scaleF h kHotF)| ∧
    (Binary64.value (scale h kHotV) = 0 ∨ 1 / 2 ^ 5 < |Binary64.value (scale h kHotV)|))

/-! ### The polynomial evaluator -/

/-- 43_polynomial R149 and R150: for type N, HOTJ.ADJ completes with the result of the operation sequence of R150, its two Horner
loops written out with the patterns of R144 and R147, and changes nothing else. The order of evaluation is the spec's own decision
(D8; log entry 18). -/
def Obligations.AdjustedResultFollowsItsSequence : Prop :=
  ∀ s : State, s.tctype = .n → ∃ t va vh v ta p : Word64,
    exec .hotjAdj s = .next { s with responses := s.responses ++ [.ok false p none] } ∧
    t = Binary64.mul (Binary64.ofInt (coldCode s.frame)) 0x3FB0000000000000#64 ∧
    va = Binary64.mul (([0x3B6F81A7A9B7B3CC#64, 0xBC26745EFB49F08B#64, 0x3CD1F7F11D3BEE69#64, 0xBD71B42F45C438E2#64,
      0x3E0618ED6D94E4EB#64, 0xBE90F3D5FF2D919C#64, 0x3F06FA2D15EEEA6D#64, 0x3F901651C65C4868#64,
      0x4039EDECCDF85FBC#64] : List Word64).foldl (fun acc a => Binary64.add (Binary64.mul acc t) a)
        0xBAA2FDC9BD602593#64) t ∧
    vh = Binary64.mul (Binary64.ofInt (hotCode s.frame)) 0x402220C49BA5E354#64 ∧
    v = Binary64.sub vh va ∧
    ta = Binary64.mul (([0x39F5294E41D3A619#64, 0xBAFF5CB446272EE3#64, 0x3BFA10A27710B4A9#64, 0xBCEB1A4CA37E6018#64,
      0x3DD31C6EDB15E3BC#64, 0xBEB37B76B9B213AB#64, 0x3FA3DB66D4B183D7#64] : List Word64).foldl
        (fun acc b => Binary64.add (Binary64.mul acc v) b) 0xB8D84C27034555F2#64) v ∧
    p = Binary64.add ta t

/-- 43_polynomial R141: under any type but N, HOTJ.ADJ reports UnsupportedConfiguration, with no RES and no VALID, and changes
nothing else, whatever the frame. The explicit error is the spec's own decision (D9); that the response has no RES and no VALID,
unspecified in the spec, and that its record keeps the type are the model's choices (log entry 9). -/
def Obligations.OtherTypesAreUnsupported : Prop :=
  ∀ s : State, s.tctype ≠ .n → ∃ r : Response,
    exec .hotjAdj s = .next { s with responses := s.responses ++ [r] } ∧
    r = .error (.unsupportedConfiguration s.tctype) ∧ r.err = 1#2 ∧ r.res? = none ∧ r.valid? = none

/-- 43_polynomial R152 (d): the result depends on the two codes alone; and (a): it is +0.0 where both are 0. Zero being positive
is in the binary64 layer, the spec's own decision (D7). -/
def Obligations.AdjustedResultDependsOnCodesOnly : Prop :=
  (∀ s t u : State, s.tctype = .n → t.tctype = .n → hotCode s.frame = hotCode t.frame →
    coldCode s.frame = coldCode t.frame → s.responses = t.responses →
    exec .hotjAdj s = .next u → ∃ v, exec .hotjAdj t = .next v ∧ v.responses = u.responses) ∧
  (∀ s : State, s.tctype = .n → hotCode s.frame = 0 → coldCode s.frame = 0 →
    exec .hotjAdj s = .next { s with responses := s.responses ++ [.ok false 0#64 none] })

/-- 43_polynomial R152 (b): for every frame every named intermediate is finite and within its bound. The binary64 layer is the
spec's own decision (D7, D8). -/
def Obligations.AdjustedResultIsAlwaysFinite : Prop :=
  ∀ f : Frame,
    Binary64.isFinite (cjcTemp f) = true ∧ |Binary64.value (cjcTemp f)| ≤ 128 ∧
    Binary64.isFinite (cjcVoltage f) = true ∧ |Binary64.value (cjcVoltage f)| < 3800 ∧
    Binary64.isFinite (adjustedVoltage f) = true ∧ |Binary64.value (adjustedVoltage f)| < 78100 ∧
    Binary64.isFinite (adjustedTemp f) = true ∧ |Binary64.value (adjustedTemp f)| < 1200000 ∧
    Binary64.isFinite (adjustedResult f) = true ∧ |Binary64.value (adjustedResult f)| < 1300000

/-- For every frame the number HOTJ.ADJ delivers is within 1e-6, the document's own tolerance, of the exact-layer value
(43_polynomial R148, R151): the two layers are one function up to the tolerance. R151 reports a grid; that it holds for every frame
is this statement's claim. -/
def Obligations.AdjustedResultIsCloseToExact : Prop :=
  ∀ f : Frame, |Binary64.value (adjustedResult f) - exactAdj (hotCode f) (coldCode f)| < 1 / 10 ^ 6
end

