-- ==== Sys2Proof/Laws/Binary64.lean ====
section
/-! SUPPORT. What rounding does: the one error bound of `roundMag`, and from it one lemma for each of multiply, add, subtract and the
integer conversion. Proofs about binary64 results cite these and never compute with the definitions. -/

namespace Sys2Proof.Machine.Binary64

theorem one_pos : (0 : Rat) < (one : Rat) := by
  have : 0 < one := by unfold one; exact Nat.two_pow_pos _
  exact_mod_cast this

theorem one_eq : (one : Rat) = 2 ^ 1074 := by unfold one; push_cast; rfl

/-! ### Rounding a quotient -/

/-- The rounded quotient is the quotient or its successor. -/
theorem roundDiv_bounds (n d : Nat) : n / d ≤ roundDiv n d ∧ roundDiv n d ≤ n / d + 1 := by
  simp only [roundDiv]; split <;> omega

/-- The rounded quotient is at most half a divisor away. -/
theorem roundDiv_error (n d : Nat) (hd : 0 < d) :
    2 * n ≤ 2 * (roundDiv n d * d) + d ∧ 2 * (roundDiv n d * d) ≤ 2 * n + d := by
  have h := Nat.div_add_mod n d
  have hr := Nat.mod_lt n hd
  have hm : d * (n / d) = n / d * d := Nat.mul_comm _ _
  simp only [roundDiv]
  split
  · rw [Nat.add_mul]; omega
  · omega

/-! ### Reading a packed pattern -/

theorem pack_toNat (neg : Bool) (m : Nat) (h : m < 2 ^ 63) :
    (pack neg m).toNat = (if neg then 2 ^ 63 else 0) + m := by
  unfold pack
  rw [BitVec.toNat_ofNat]
  split <;> omega

theorem expField_pack (neg : Bool) (m : Nat) (h : m < 2 ^ 63) : expField (pack neg m) = m / 2 ^ 52 := by
  unfold expField
  rw [BitVec.extractLsb'_toNat, pack_toNat neg m h, Nat.shiftRight_eq_div_pow]
  split <;> omega

theorem fracField_pack (neg : Bool) (m : Nat) (h : m < 2 ^ 63) : fracField (pack neg m) = m % 2 ^ 52 := by
  unfold fracField
  rw [BitVec.extractLsb'_toNat, pack_toNat neg m h]
  split <;> omega

theorem sign_pack (neg : Bool) (m : Nat) (h : m < 2 ^ 63) : sign (pack neg m) = neg := by
  unfold sign
  rw [BitVec.msb_eq_decide, pack_toNat neg m h]
  cases neg
  · simp; omega
  · simp

/-- A packed quantum count reads back as that many quanta. -/
theorem magUnits_pack (neg : Bool) (sh k : Nat) (hk : sh = 0 ∨ 2 ^ 52 ≤ k) (hle : k ≤ 2 ^ 53)
    (hfin : sh * 2 ^ 52 + k < 2047 * 2 ^ 52) :
    isFinite (pack neg (sh * 2 ^ 52 + k)) = true ∧ magUnits (pack neg (sh * 2 ^ 52 + k)) = k * 2 ^ sh := by
  have h63 : sh * 2 ^ 52 + k < 2 ^ 63 := by omega
  have he := expField_pack neg _ h63
  have hf := fracField_pack neg _ h63
  constructor
  · unfold isFinite; rw [he]; simp; omega
  · unfold magUnits significand
    rw [he, hf]
    rcases Nat.lt_or_ge k (2 ^ 52) with h1 | h1
    · have h0 : sh = 0 := by omega
      subst h0
      have hd : (0 * 2 ^ 52 + k) / 2 ^ 52 = 0 := by omega
      rw [hd]; simp; omega
    · rcases Nat.lt_or_ge k (2 ^ 53) with h2 | h2
      · have hd : (sh * 2 ^ 52 + k) / 2 ^ 52 = sh + 1 := by omega
        have hm : 2 ^ 52 + (sh * 2 ^ 52 + k) % 2 ^ 52 = k := by omega
        rw [hd, if_neg (by omega), hm, Nat.add_sub_cancel]
      · have hk2 : k = 2 ^ 53 := by omega
        have hd : (sh * 2 ^ 52 + k) / 2 ^ 52 = sh + 2 := by omega
        have hm : 2 ^ 52 + (sh * 2 ^ 52 + k) % 2 ^ 52 = 2 ^ 52 := by omega
        rw [hd, if_neg (by omega), hm, hk2, show sh + 2 - 1 = sh + 1 by omega, Nat.pow_succ]
        omega

/-! ### The rounding step -/

/-- The shape of a rounding: a shift and a count of quanta, the count a full significand unless the shift is 0. -/
theorem roundMag_shape (num den : Nat) (hd : 0 < den) :
    ∃ sh k, roundMag num den = min (sh * 2 ^ 52 + k) (2047 * 2 ^ 52) ∧ (sh = 0 ∨ 2 ^ 52 ≤ k) ∧ k ≤ 2 ^ 53 ∧
      k = roundDiv num (den * 2 ^ sh) ∧ sh = Nat.log2 (num / den) - 52 ∧
      (sh = 0 ∨ 2 ^ (sh + 52) * den ≤ num) := by
  refine ⟨Nat.log2 (num / den) - 52, _, rfl, ?_, ?_, rfl, rfl, ?_⟩
  all_goals
    obtain ⟨q, hq⟩ : ∃ q, q = num / den := ⟨_, rfl⟩
    rw [← hq]
  · by_cases h0 : Nat.log2 q - 52 = 0
    · exact .inl h0
    · right
      have hq0 : q ≠ 0 := by rintro rfl; simp at h0
      refine Nat.le_trans ?_ (roundDiv_bounds _ _).1
      rw [← Nat.div_div_eq_div_mul, ← hq, Nat.le_div_iff_mul_le (Nat.two_pow_pos _), ← Nat.pow_add]
      rw [show 52 + (Nat.log2 q - 52) = Nat.log2 q by omega]
      exact Nat.log2_self_le hq0
  · refine Nat.le_trans (roundDiv_bounds _ _).2 ?_
    have : num / (den * 2 ^ (Nat.log2 q - 52)) < 2 ^ 53 := by
      rw [← Nat.div_div_eq_div_mul, ← hq, Nat.div_lt_iff_lt_mul (Nat.two_pow_pos _), ← Nat.pow_add]
      exact Nat.lt_of_lt_of_le Nat.lt_log2_self (Nat.pow_le_pow_right (by omega) (by omega))
    omega
  · by_cases h0 : Nat.log2 q - 52 = 0
    · exact .inl h0
    · right
      have hq0 : q ≠ 0 := by rintro rfl; simp at h0
      rw [show Nat.log2 q - 52 + 52 = Nat.log2 q by omega]
      exact (Nat.le_div_iff_mul_le hd).1 (hq ▸ Nat.log2_self_le hq0)

/-- The error of a rounding: below the overflow range the result is finite, and its magnitude in units differs from the exact quotient
by at most half a unit or one part in `2 ^ 53`. -/
theorem roundMag_error (neg : Bool) (num den e : Nat) (hd : 0 < den) (he : e ≤ 2097)
    (hlt : num < den * 2 ^ e) :
    isFinite (pack neg (roundMag num den)) = true ∧ sign (pack neg (roundMag num den)) = neg ∧
    |(magUnits (pack neg (roundMag num den)) : Rat) - num / den| ≤ 1 / 2 + num / den / 2 ^ 53 := by
  obtain ⟨sh, k, hr, h1, h2, hk, hsh, h3⟩ := roundMag_shape num den hd
  have hshle : sh ≤ 2044 := by
    have hq : num / den < 2 ^ e := (Nat.div_lt_iff_lt_mul hd).2 (by rwa [Nat.mul_comm])
    rcases Nat.eq_zero_or_pos (num / den) with h0 | h0
    · rw [h0] at hsh; simp at hsh; omega
    · have := (Nat.log2_lt (by omega)).2 hq
      omega
  have hfin : sh * 2 ^ 52 + k < 2047 * 2 ^ 52 := by omega
  rw [hr, Nat.min_eq_left (by omega)]
  obtain ⟨hf, hm⟩ := magUnits_pack neg sh k h1 h2 hfin
  refine ⟨hf, sign_pack neg _ (by omega), ?_⟩
  rw [hm]
  have hD : 0 < den * 2 ^ sh := Nat.mul_pos hd (Nat.two_pow_pos _)
  obtain ⟨e1, e2⟩ := roundDiv_error num (den * 2 ^ sh) hD
  rw [← hk] at e1 e2
  have e1 : 2 * (num : Rat) ≤ 2 * (k * (den * 2 ^ sh)) + den * 2 ^ sh := by exact_mod_cast e1
  have e2 : 2 * (k * (den * 2 ^ sh) : Rat) ≤ 2 * num + den * 2 ^ sh := by exact_mod_cast e2
  have hdq : (0 : Rat) < den := by exact_mod_cast hd
  have hx : (num : Rat) = num / den * den := by field_simp
  obtain ⟨x, hxd⟩ : ∃ x : Rat, x = num / den := ⟨_, rfl⟩
  rw [← hxd] at hx ⊢
  rw [hx] at e1 e2
  have e1' : 2 * x ≤ 2 * (k * 2 ^ sh) + 2 ^ sh := by
    refine le_of_mul_le_mul_right ?_ hdq; linarith
  have e2' : 2 * (k * 2 ^ sh : Rat) ≤ 2 * x + 2 ^ sh := by
    refine le_of_mul_le_mul_right ?_ hdq; linarith
  have hx0 : 0 ≤ x := by rw [hxd]; positivity
  have hp : (2 : Rat) ^ sh ≤ 1 + 2 * (x / 2 ^ 53) := by
    rcases h3 with h0 | h3
    · rw [h0]
      have : 0 ≤ x / 2 ^ 53 := by positivity
      simp; linarith
    · have h3 : (2 : Rat) ^ (sh + 52) * den ≤ num := by exact_mod_cast h3
      rw [hx] at h3
      have h3 := le_of_mul_le_mul_right h3 hdq
      rw [pow_add] at h3
      linarith
  have : ((k * 2 ^ sh : Nat) : Rat) = k * 2 ^ sh := by push_cast; rfl
  rw [this, abs_le]
  constructor <;> linarith

/-- A quotient of the form `k * 2 ^ e` with a significand `k` is not rounded at all. -/
theorem roundMag_exact (neg : Bool) (num den k e : Nat) (hd : 0 < den) (he : e ≤ 2044) (hk : k < 2 ^ 53)
    (hnum : num = k * 2 ^ e * den) :
    isFinite (pack neg (roundMag num den)) = true ∧ sign (pack neg (roundMag num den)) = neg ∧
      magUnits (pack neg (roundMag num den)) = k * 2 ^ e := by
  obtain ⟨sh, c, hr, h1, h2, hc, hsh, -⟩ := roundMag_shape num den hd
  have hq : num / den = k * 2 ^ e := by rw [hnum, Nat.mul_div_cancel _ hd]
  have hle : sh ≤ e := by
    rcases Nat.eq_zero_or_pos (k * 2 ^ e) with h0 | h0
    · rw [hq, h0] at hsh; simp at hsh; omega
    · have : Nat.log2 (k * 2 ^ e) < 53 + e := by
        rw [Nat.log2_lt (by omega), Nat.pow_add]
        exact Nat.mul_lt_mul_of_pos_right hk (Nat.two_pow_pos _)
      rw [hq] at hsh; omega
  have hsplit : 2 ^ e = 2 ^ (e - sh) * 2 ^ sh := by rw [← Nat.pow_add, Nat.sub_add_cancel hle]
  have hD : 0 < den * 2 ^ sh := Nat.mul_pos hd (Nat.two_pow_pos _)
  have hn : num = k * 2 ^ (e - sh) * (den * 2 ^ sh) := by
    rw [hnum, hsplit]; ring
  have hce : c = k * 2 ^ (e - sh) := by
    rw [hc, hn]
    simp only [roundDiv, Nat.mul_div_cancel _ hD, Nat.mul_mod_left]
    rw [if_neg]
    omega
  have hfin : sh * 2 ^ 52 + c < 2047 * 2 ^ 52 := by omega
  rw [hr, Nat.min_eq_left (by omega)]
  obtain ⟨hf, hm⟩ := magUnits_pack neg sh c h1 h2 hfin
  exact ⟨hf, sign_pack neg _ (by omega), by rw [hm, hce, hsplit, Nat.mul_assoc]⟩

/-! ### Values -/

theorem abs_units (p : Word64) : |(units p : Rat)| = magUnits p := by
  unfold units
  split
  · push_cast; rw [abs_neg]; exact abs_of_nonneg (Nat.cast_nonneg _)
  · push_cast; exact abs_of_nonneg (Nat.cast_nonneg _)

/-- The error of rounding a signed number of units. -/
theorem pack_error (n : Rat) (neg : Bool) (num den : Nat) {e : Nat} (he : e ≤ 2097) (hd : 0 < den)
    (hn : n = (if neg then -1 else 1) * (num / den)) (hlt : |n| < 2 ^ e) :
    isFinite (pack neg (roundMag num den)) = true ∧
    |(units (pack neg (roundMag num den)) : Rat) - n| ≤ 1 / 2 + |n| / 2 ^ 53 := by
  have hdq : (0 : Rat) < den := by exact_mod_cast hd
  have habs : |n| = num / den := by
    rw [hn, abs_mul, abs_of_nonneg (show (0 : Rat) ≤ num / den by positivity)]
    cases neg <;> simp
  have hlt' : num < den * 2 ^ e := by
    rw [habs, div_lt_iff₀ hdq] at hlt
    have : (num : Rat) < den * 2 ^ e := by linarith
    exact_mod_cast this
  obtain ⟨h1, h2, h3⟩ := roundMag_error neg num den e hd he hlt'
  refine ⟨h1, ?_⟩
  rw [habs]
  have hu : (units (pack neg (roundMag num den)) : Rat) - n =
      (if neg then -1 else 1) * ((magUnits (pack neg (roundMag num den)) : Rat) - num / den) := by
    unfold units
    rw [h2, hn]
    cases neg <;> simp <;> ring
  rw [hu, abs_mul]
  cases neg <;> simpa using h3

/-- From units to values. -/
theorem value_error {p : Word64} {q : Rat} (h : |(units p : Rat) - q * one| ≤ 1 / 2 + |q * one| / 2 ^ 53) :
    |value p - q| ≤ |q| / 2 ^ 53 + 1 / 2 ^ 1075 := by
  have h1 := one_pos
  have e : value p - q = (units p - q * one) / one := by unfold value; field_simp
  rw [e, abs_div, abs_of_pos h1, div_le_iff₀ h1]
  refine le_trans h ?_
  rw [abs_mul, abs_of_pos h1]
  have : (1 : Rat) / 2 ^ 1075 * one = 1 / 2 := by
    rw [one_eq, pow_succ (2 : Rat) 1074]; field_simp
  have e2 : (|q| / 2 ^ 53 + 1 / 2 ^ 1075) * one = |q| * one / 2 ^ 53 + 1 / 2 ^ 1075 * one := by ring
  rw [e2, this]
  linarith

/-- A magnitude below `2 ^ 1023` is below `2 ^ 2097` units. -/
theorem units_lt {q : Rat} (h : |q| < 2 ^ 1023) : |q * one| < 2 ^ 2097 := by
  rw [abs_mul, abs_of_pos one_pos, one_eq, show (2097 : Nat) = 1023 + 1074 by rfl, pow_add]
  exact mul_lt_mul_of_pos_right h (by positivity)

/-- `b64(q)`: finite and close for every fraction below `2 ^ 1023` in magnitude. -/
theorem ofFraction_error (num : Int) (den : Nat) (hd : 0 < den) (hq : |(num / den : Rat)| < 2 ^ 1023) :
    isFinite (ofFraction num den) = true ∧
    |value (ofFraction num den) - num / den| ≤ |(num / den : Rat)| / 2 ^ 53 + 1 / 2 ^ 1075 := by
  have hn : (num / den : Rat) * one = (if decide (num < 0) then -1 else 1) * ((num.natAbs * one : Nat) / den) := by
    push_cast
    rw [Nat.cast_natAbs]
    by_cases h : num < 0
    · simp [h, abs_of_neg h]; ring
    · simp [h, abs_of_nonneg (not_lt.1 h)]; ring
  obtain ⟨h1, h2⟩ := pack_error _ _ _ den (Nat.le_refl _) hd hn (units_lt hq)
  exact ⟨h1, value_error h2⟩

/-- `a (*) b`: finite and close while the exact product is below `2 ^ 1023` in magnitude. -/
theorem mul_error {a b : Word64} (ha : isFinite a = true) (hb : isFinite b = true)
    (hq : |value a * value b| < 2 ^ 1023) :
    isFinite (mul a b) = true ∧
    |value (mul a b) - value a * value b| ≤ |value a * value b| / 2 ^ 53 + 1 / 2 ^ 1075 := by
  have h1 := one_pos
  have hn : value a * value b * one =
      (if (sign a != sign b) then -1 else 1) * ((magUnits a * magUnits b : Nat) / (one : Nat)) := by
    unfold value units
    push_cast
    field_simp
    cases sign a <;> cases sign b <;> simp
  have hp : 0 < one := by unfold one; exact Nat.two_pow_pos _
  obtain ⟨h2, h3⟩ := pack_error _ _ _ one (Nat.le_refl _) hp hn (units_lt hq)
  unfold mul
  rw [ha, hb]
  exact ⟨h2, value_error h3⟩

/-- `a (*) b` is exact where the exact product is a significand times a power of two in units. -/
theorem mul_exact {a b : Word64} (ha : isFinite a = true) (hb : isFinite b = true) {k e : Nat} (he : e ≤ 2044)
    (hk : k < 2 ^ 53) (h : magUnits a * magUnits b = k * 2 ^ e * one) :
    isFinite (mul a b) = true ∧ value (mul a b) = value a * value b := by
  have h1 := one_pos
  have hp : 0 < one := by exact_mod_cast h1
  obtain ⟨h2, h3, h4⟩ := roundMag_exact (sign a != sign b) _ one k e hp he hk h
  unfold mul
  rw [ha, hb]
  refine ⟨h2, ?_⟩
  have hq : (magUnits a : Rat) * magUnits b = k * 2 ^ e * one := by exact_mod_cast h
  simp only [Bool.and_self, if_true]
  unfold value units
  rw [h3, h4]
  push_cast
  field_simp
  cases sign a <;> cases sign b <;> simp <;> linarith

/-- `i2f(n)` is exact (41_field_extract R109 c). -/
theorem ofInt_exact {n : Int} (h : n.natAbs < 2 ^ 53) :
    isFinite (ofInt n) = true ∧ sign (ofInt n) = decide (n < 0) ∧ magUnits (ofInt n) = n.natAbs * one := by
  unfold ofInt ofFraction one
  exact roundMag_exact (decide (n < 0)) _ 1 n.natAbs 1074 (by omega) (by omega) h (by omega)

/-- The value of `i2f(n)` is `n`. -/
theorem ofInt_value {n : Int} (h : n.natAbs < 2 ^ 53) : value (ofInt n) = n := by
  obtain ⟨-, h2, h3⟩ := ofInt_exact h
  have h1 := one_pos
  unfold value units
  rw [h2, h3]
  by_cases hn : n < 0
  · have hc : |(n : Rat)| = -n := abs_of_neg (by exact_mod_cast hn)
    simp only [hn, decide_true, if_true]
    push_cast
    rw [hc]; field_simp
  · have hc : |(n : Rat)| = n := abs_of_nonneg (by exact_mod_cast not_lt.1 hn)
    simp only [hn, decide_false]
    push_cast
    rw [hc]; field_simp

/-- `a (+) b`: finite and close while the exact sum is below `2 ^ 1023` in magnitude. -/
theorem add_error {a b : Word64} (ha : isFinite a = true) (hb : isFinite b = true)
    (hq : |value a + value b| < 2 ^ 1023) :
    isFinite (add a b) = true ∧
    |value (add a b) - (value a + value b)| ≤ |value a + value b| / 2 ^ 53 + 1 / 2 ^ 1075 := by
  have h1 := one_pos
  have hs : (value a + value b) * one = ((units a + units b : Int) : Rat) := by
    unfold value; push_cast; field_simp
  have key : ∀ (neg : Bool) (m : Nat), isFinite (pack neg (roundMag m 1)) = true →
      |(units (pack neg (roundMag m 1)) : Rat) - (value a + value b) * one| ≤
        1 / 2 + |(value a + value b) * one| / 2 ^ 53 →
      isFinite (pack neg (roundMag m 1)) = true ∧
      |value (pack neg (roundMag m 1)) - (value a + value b)| ≤ |value a + value b| / 2 ^ 53 + 1 / 2 ^ 1075 :=
    fun _ _ h2 h3 => ⟨h2, value_error h3⟩
  unfold add
  simp only [ha, hb, Bool.and_self, if_true]
  by_cases h0 : units a + units b = 0
  · rw [if_pos h0]
    have hz : ∀ neg, pack neg 0 = pack neg (roundMag 0 1) := by intro neg; rfl
    rw [hz]
    refine (fun h => key _ _ h.1 h.2) (pack_error _ _ 0 1 (Nat.le_refl _) (by omega) ?_ (units_lt hq))
    rw [hs, h0]; simp
  · rw [if_neg h0]
    refine (fun h => key _ _ h.1 h.2) (pack_error _ _ _ 1 (Nat.le_refl _) (by omega) ?_ (units_lt hq))
    rw [hs, Nat.cast_natAbs]
    by_cases h : units a + units b < 0
    · simp [h, abs_of_neg h]
    · simp [h, abs_of_nonneg (not_lt.1 h)]

/-- The opposite sign gives the opposite value. -/
theorem neg_spec (b : Word64) : isFinite (neg b) = isFinite b ∧ value (neg b) = -value b := by
  have hl : ∀ i, i < 63 → (neg b).getLsbD i = b.getLsbD i := by
    intro i hi
    have h63 : (1#64 <<< 63).getLsbD i = false := by
      simp only [BitVec.getLsbD_shiftLeft]; simp; omega
    simp only [neg, BitVec.getLsbD_xor, h63, Bool.xor_false]
  have he : expField (neg b) = expField b := by
    unfold expField; congr 1
    apply BitVec.eq_of_getLsbD_eq; intro i hi
    simp [hi, hl (52 + i) (by omega)]
  have hf : fracField (neg b) = fracField b := by
    unfold fracField; congr 1
    apply BitVec.eq_of_getLsbD_eq; intro i hi
    simp [hi, hl i (by omega)]
  have hs : sign (neg b) = !sign b := by
    unfold sign; rw [BitVec.msb_eq_getLsbD_last, BitVec.msb_eq_getLsbD_last]; simp [neg]
  refine ⟨by unfold isFinite; rw [he], ?_⟩
  have hm : magUnits (neg b) = magUnits b := by unfold magUnits significand; rw [he, hf]
  unfold value units
  rw [hs, hm]
  cases sign b <;> simp <;> ring

/-- `a (-) b`: finite and close while the exact difference is below `2 ^ 1023` in magnitude. -/
theorem sub_error {a b : Word64} (ha : isFinite a = true) (hb : isFinite b = true)
    (hq : |value a - value b| < 2 ^ 1023) :
    isFinite (sub a b) = true ∧
    |value (sub a b) - (value a - value b)| ≤ |value a - value b| / 2 ^ 53 + 1 / 2 ^ 1075 := by
  obtain ⟨h1, h2⟩ := neg_spec b
  have := add_error ha (h1.trans hb) (by rwa [h2, ← sub_eq_add_neg])
  rwa [h2, ← sub_eq_add_neg] at this

/-! ### The same with numbers a proof can compute with -/

/-- The value of a positive pattern with exponent field `e`, significand `m` and `sh` places after the point. -/
theorem value_of_fields {p : Word64} (m sh : Nat) (hs : sign p = false) (hm : significand p = m)
    (he : expField p - 1 + sh = 1074) : value p = m / 2 ^ sh := by
  unfold value units magUnits
  rw [hs, hm, one_eq]
  generalize hx : expField p - 1 = x at he
  rw [← he, pow_add]
  push_cast
  field_simp

/-- A result within the general bound is within a bound in small numbers. -/
theorem close_of_error {x q B : Rat} (hB : |q| ≤ B) (h : |x - q| ≤ |q| / 2 ^ 53 + 1 / 2 ^ 1075) :
    |x - q| ≤ B / 2 ^ 53 + 1 / 2 ^ 200 := by
  have h1 : |q| / 2 ^ 53 ≤ B / 2 ^ 53 := by gcongr
  have h2 : (1 : Rat) / 2 ^ 1075 ≤ 1 / 2 ^ 200 :=
    one_div_le_one_div_of_le (by positivity) (pow_le_pow_right₀ (by norm_num) (by omega))
  linarith

/-- A bound in small numbers is far below the overflow range. -/
theorem lt_of_small {q B : Rat} (hB : |q| ≤ B) (h : B ≤ 2 ^ 200) : |q| < 2 ^ 1023 :=
  lt_of_le_of_lt (le_trans hB h) (pow_lt_pow_right₀ (by norm_num) (by omega))

/-- `a (*) b` where the exact product is at most `B` in magnitude. -/
theorem mul_close {a b : Word64} {B : Rat} (ha : isFinite a = true) (hb : isFinite b = true)
    (hq : |value a * value b| ≤ B) (h : B ≤ 2 ^ 200) :
    isFinite (mul a b) = true ∧ |value (mul a b) - value a * value b| ≤ B / 2 ^ 53 + 1 / 2 ^ 200 :=
  (mul_error ha hb (lt_of_small hq h)).imp_right (close_of_error hq)

/-- `a (+) b` where the exact sum is at most `B` in magnitude. -/
theorem add_close {a b : Word64} {B : Rat} (ha : isFinite a = true) (hb : isFinite b = true)
    (hq : |value a + value b| ≤ B) (h : B ≤ 2 ^ 200) :
    isFinite (add a b) = true ∧ |value (add a b) - (value a + value b)| ≤ B / 2 ^ 53 + 1 / 2 ^ 200 :=
  (add_error ha hb (lt_of_small hq h)).imp_right (close_of_error hq)

/-- `a (-) b` where the exact difference is at most `B` in magnitude. -/
theorem sub_close {a b : Word64} {B : Rat} (ha : isFinite a = true) (hb : isFinite b = true)
    (hq : |value a - value b| ≤ B) (h : B ≤ 2 ^ 200) :
    isFinite (sub a b) = true ∧ |value (sub a b) - (value a - value b)| ≤ B / 2 ^ 53 + 1 / 2 ^ 200 :=
  (sub_error ha hb (lt_of_small hq h)).imp_right (close_of_error hq)

end Sys2Proof.Machine.Binary64
end

