-- ==== Sys2Proof/Laws/State.lean ====
section
/-! SUPPORT. One lemma for each field and each named update of the state, so that no later proof unfolds a record update. -/

namespace Sys2Proof.Machine

/-! ### respond -/

@[simp] theorem State.respond_frame (s : State) (r : Response) : (s.respond r).frame = s.frame := rfl
@[simp] theorem State.respond_tctype (s : State) (r : Response) : (s.respond r).tctype = s.tctype := rfl
@[simp] theorem State.respond_pins (s : State) (r : Response) : (s.respond r).pins = s.pins := rfl
@[simp] theorem State.respond_sckOut (s : State) (r : Response) : (s.respond r).sckOut = s.sckOut := rfl
@[simp] theorem State.respond_csOut (s : State) (r : Response) : (s.respond r).csOut = s.csOut := rfl
@[simp] theorem State.respond_soDir (s : State) (r : Response) : (s.respond r).soDir = s.soDir := rfl
@[simp] theorem State.respond_sckDir (s : State) (r : Response) : (s.respond r).sckDir = s.sckDir := rfl
@[simp] theorem State.respond_csDir (s : State) (r : Response) : (s.respond r).csDir = s.csDir := rfl
@[simp] theorem State.respond_seq (s : State) (r : Response) : (s.respond r).seq = s.seq := rfl
@[simp] theorem State.respond_bitIdx (s : State) (r : Response) : (s.respond r).bitIdx = s.bitIdx := rfl
@[simp] theorem State.respond_sr (s : State) (r : Response) : (s.respond r).sr = s.sr := rfl
@[simp] theorem State.respond_rst (s : State) (r : Response) : (s.respond r).rst = s.rst := rfl
@[simp] theorem State.respond_cmds (s : State) (r : Response) : (s.respond r).cmds = s.cmds := rfl
@[simp] theorem State.respond_soLine (s : State) (r : Response) : (s.respond r).soLine = s.soLine := rfl
@[simp] theorem State.respond_soReads (s : State) (r : Response) : (s.respond r).soReads = s.soReads := rfl
@[simp] theorem State.respond_constructs (s : State) (r : Response) : (s.respond r).constructs = s.constructs := rfl
@[simp] theorem State.respond_responses (s : State) (r : Response) : (s.respond r).responses = s.responses ++ [r] := rfl
@[simp] theorem State.respond_trace (s : State) (r : Response) : (s.respond r).trace = s.trace := rfl

/-! ### modeSo -/

@[simp] theorem State.modeSo_frame (s : State) (d : PinDir) : (s.modeSo d).frame = s.frame := rfl
@[simp] theorem State.modeSo_tctype (s : State) (d : PinDir) : (s.modeSo d).tctype = s.tctype := rfl
@[simp] theorem State.modeSo_pins (s : State) (d : PinDir) : (s.modeSo d).pins = s.pins := rfl
@[simp] theorem State.modeSo_sckOut (s : State) (d : PinDir) : (s.modeSo d).sckOut = s.sckOut := rfl
@[simp] theorem State.modeSo_csOut (s : State) (d : PinDir) : (s.modeSo d).csOut = s.csOut := rfl
@[simp] theorem State.modeSo_soDir (s : State) (d : PinDir) : (s.modeSo d).soDir = d := rfl
@[simp] theorem State.modeSo_sckDir (s : State) (d : PinDir) : (s.modeSo d).sckDir = s.sckDir := rfl
@[simp] theorem State.modeSo_csDir (s : State) (d : PinDir) : (s.modeSo d).csDir = s.csDir := rfl
@[simp] theorem State.modeSo_seq (s : State) (d : PinDir) : (s.modeSo d).seq = s.seq := rfl
@[simp] theorem State.modeSo_bitIdx (s : State) (d : PinDir) : (s.modeSo d).bitIdx = s.bitIdx := rfl
@[simp] theorem State.modeSo_sr (s : State) (d : PinDir) : (s.modeSo d).sr = s.sr := rfl
@[simp] theorem State.modeSo_rst (s : State) (d : PinDir) : (s.modeSo d).rst = s.rst := rfl
@[simp] theorem State.modeSo_cmds (s : State) (d : PinDir) : (s.modeSo d).cmds = s.cmds := rfl
@[simp] theorem State.modeSo_soLine (s : State) (d : PinDir) : (s.modeSo d).soLine = s.soLine := rfl
@[simp] theorem State.modeSo_soReads (s : State) (d : PinDir) : (s.modeSo d).soReads = s.soReads := rfl
@[simp] theorem State.modeSo_constructs (s : State) (d : PinDir) : (s.modeSo d).constructs = s.constructs := rfl
@[simp] theorem State.modeSo_responses (s : State) (d : PinDir) : (s.modeSo d).responses = s.responses := rfl
@[simp] theorem State.modeSo_trace (s : State) (d : PinDir) : (s.modeSo d).trace = s.trace ++ [.mode .so s.pins.so d] := rfl

/-! ### modeSck -/

@[simp] theorem State.modeSck_frame (s : State) (d : PinDir) : (s.modeSck d).frame = s.frame := rfl
@[simp] theorem State.modeSck_tctype (s : State) (d : PinDir) : (s.modeSck d).tctype = s.tctype := rfl
@[simp] theorem State.modeSck_pins (s : State) (d : PinDir) : (s.modeSck d).pins = s.pins := rfl
@[simp] theorem State.modeSck_sckOut (s : State) (d : PinDir) : (s.modeSck d).sckOut = s.sckOut := rfl
@[simp] theorem State.modeSck_csOut (s : State) (d : PinDir) : (s.modeSck d).csOut = s.csOut := rfl
@[simp] theorem State.modeSck_soDir (s : State) (d : PinDir) : (s.modeSck d).soDir = s.soDir := rfl
@[simp] theorem State.modeSck_sckDir (s : State) (d : PinDir) : (s.modeSck d).sckDir = d := rfl
@[simp] theorem State.modeSck_csDir (s : State) (d : PinDir) : (s.modeSck d).csDir = s.csDir := rfl
@[simp] theorem State.modeSck_seq (s : State) (d : PinDir) : (s.modeSck d).seq = s.seq := rfl
@[simp] theorem State.modeSck_bitIdx (s : State) (d : PinDir) : (s.modeSck d).bitIdx = s.bitIdx := rfl
@[simp] theorem State.modeSck_sr (s : State) (d : PinDir) : (s.modeSck d).sr = s.sr := rfl
@[simp] theorem State.modeSck_rst (s : State) (d : PinDir) : (s.modeSck d).rst = s.rst := rfl
@[simp] theorem State.modeSck_cmds (s : State) (d : PinDir) : (s.modeSck d).cmds = s.cmds := rfl
@[simp] theorem State.modeSck_soLine (s : State) (d : PinDir) : (s.modeSck d).soLine = s.soLine := rfl
@[simp] theorem State.modeSck_soReads (s : State) (d : PinDir) : (s.modeSck d).soReads = s.soReads := rfl
@[simp] theorem State.modeSck_constructs (s : State) (d : PinDir) : (s.modeSck d).constructs = s.constructs := rfl
@[simp] theorem State.modeSck_responses (s : State) (d : PinDir) : (s.modeSck d).responses = s.responses := rfl
@[simp] theorem State.modeSck_trace (s : State) (d : PinDir) : (s.modeSck d).trace = s.trace ++ [.mode .sck s.pins.sck d] := rfl

/-! ### modeCs -/

@[simp] theorem State.modeCs_frame (s : State) (d : PinDir) : (s.modeCs d).frame = s.frame := rfl
@[simp] theorem State.modeCs_tctype (s : State) (d : PinDir) : (s.modeCs d).tctype = s.tctype := rfl
@[simp] theorem State.modeCs_pins (s : State) (d : PinDir) : (s.modeCs d).pins = s.pins := rfl
@[simp] theorem State.modeCs_sckOut (s : State) (d : PinDir) : (s.modeCs d).sckOut = s.sckOut := rfl
@[simp] theorem State.modeCs_csOut (s : State) (d : PinDir) : (s.modeCs d).csOut = s.csOut := rfl
@[simp] theorem State.modeCs_soDir (s : State) (d : PinDir) : (s.modeCs d).soDir = s.soDir := rfl
@[simp] theorem State.modeCs_sckDir (s : State) (d : PinDir) : (s.modeCs d).sckDir = s.sckDir := rfl
@[simp] theorem State.modeCs_csDir (s : State) (d : PinDir) : (s.modeCs d).csDir = d := rfl
@[simp] theorem State.modeCs_seq (s : State) (d : PinDir) : (s.modeCs d).seq = s.seq := rfl
@[simp] theorem State.modeCs_bitIdx (s : State) (d : PinDir) : (s.modeCs d).bitIdx = s.bitIdx := rfl
@[simp] theorem State.modeCs_sr (s : State) (d : PinDir) : (s.modeCs d).sr = s.sr := rfl
@[simp] theorem State.modeCs_rst (s : State) (d : PinDir) : (s.modeCs d).rst = s.rst := rfl
@[simp] theorem State.modeCs_cmds (s : State) (d : PinDir) : (s.modeCs d).cmds = s.cmds := rfl
@[simp] theorem State.modeCs_soLine (s : State) (d : PinDir) : (s.modeCs d).soLine = s.soLine := rfl
@[simp] theorem State.modeCs_soReads (s : State) (d : PinDir) : (s.modeCs d).soReads = s.soReads := rfl
@[simp] theorem State.modeCs_constructs (s : State) (d : PinDir) : (s.modeCs d).constructs = s.constructs := rfl
@[simp] theorem State.modeCs_responses (s : State) (d : PinDir) : (s.modeCs d).responses = s.responses := rfl
@[simp] theorem State.modeCs_trace (s : State) (d : PinDir) : (s.modeCs d).trace = s.trace ++ [.mode .cs s.pins.cs d] := rfl

/-! ### writeSck -/

@[simp] theorem State.writeSck_frame (s : State) (l : Level) : (s.writeSck l).frame = s.frame := rfl
@[simp] theorem State.writeSck_tctype (s : State) (l : Level) : (s.writeSck l).tctype = s.tctype := rfl
@[simp] theorem State.writeSck_pins (s : State) (l : Level) : (s.writeSck l).pins = s.pins := rfl
@[simp] theorem State.writeSck_sckOut (s : State) (l : Level) : (s.writeSck l).sckOut = l := rfl
@[simp] theorem State.writeSck_csOut (s : State) (l : Level) : (s.writeSck l).csOut = s.csOut := rfl
@[simp] theorem State.writeSck_soDir (s : State) (l : Level) : (s.writeSck l).soDir = s.soDir := rfl
@[simp] theorem State.writeSck_sckDir (s : State) (l : Level) : (s.writeSck l).sckDir = s.sckDir := rfl
@[simp] theorem State.writeSck_csDir (s : State) (l : Level) : (s.writeSck l).csDir = s.csDir := rfl
@[simp] theorem State.writeSck_seq (s : State) (l : Level) : (s.writeSck l).seq = s.seq := rfl
@[simp] theorem State.writeSck_bitIdx (s : State) (l : Level) : (s.writeSck l).bitIdx = s.bitIdx := rfl
@[simp] theorem State.writeSck_sr (s : State) (l : Level) : (s.writeSck l).sr = s.sr := rfl
@[simp] theorem State.writeSck_rst (s : State) (l : Level) : (s.writeSck l).rst = s.rst := rfl
@[simp] theorem State.writeSck_cmds (s : State) (l : Level) : (s.writeSck l).cmds = s.cmds := rfl
@[simp] theorem State.writeSck_soLine (s : State) (l : Level) : (s.writeSck l).soLine = s.soLine := rfl
@[simp] theorem State.writeSck_soReads (s : State) (l : Level) : (s.writeSck l).soReads = s.soReads := rfl
@[simp] theorem State.writeSck_constructs (s : State) (l : Level) : (s.writeSck l).constructs = s.constructs := rfl
@[simp] theorem State.writeSck_responses (s : State) (l : Level) : (s.writeSck l).responses = s.responses := rfl
@[simp] theorem State.writeSck_trace (s : State) (l : Level) : (s.writeSck l).trace = s.trace ++ [.write .sck s.pins.sck l] := rfl

/-! ### writeCs -/

@[simp] theorem State.writeCs_frame (s : State) (l : Level) : (s.writeCs l).frame = s.frame := rfl
@[simp] theorem State.writeCs_tctype (s : State) (l : Level) : (s.writeCs l).tctype = s.tctype := rfl
@[simp] theorem State.writeCs_pins (s : State) (l : Level) : (s.writeCs l).pins = s.pins := rfl
@[simp] theorem State.writeCs_sckOut (s : State) (l : Level) : (s.writeCs l).sckOut = s.sckOut := rfl
@[simp] theorem State.writeCs_csOut (s : State) (l : Level) : (s.writeCs l).csOut = l := rfl
@[simp] theorem State.writeCs_soDir (s : State) (l : Level) : (s.writeCs l).soDir = s.soDir := rfl
@[simp] theorem State.writeCs_sckDir (s : State) (l : Level) : (s.writeCs l).sckDir = s.sckDir := rfl
@[simp] theorem State.writeCs_csDir (s : State) (l : Level) : (s.writeCs l).csDir = s.csDir := rfl
@[simp] theorem State.writeCs_seq (s : State) (l : Level) : (s.writeCs l).seq = s.seq := rfl
@[simp] theorem State.writeCs_bitIdx (s : State) (l : Level) : (s.writeCs l).bitIdx = s.bitIdx := rfl
@[simp] theorem State.writeCs_sr (s : State) (l : Level) : (s.writeCs l).sr = s.sr := rfl
@[simp] theorem State.writeCs_rst (s : State) (l : Level) : (s.writeCs l).rst = s.rst := rfl
@[simp] theorem State.writeCs_cmds (s : State) (l : Level) : (s.writeCs l).cmds = s.cmds := rfl
@[simp] theorem State.writeCs_soLine (s : State) (l : Level) : (s.writeCs l).soLine = s.soLine := rfl
@[simp] theorem State.writeCs_soReads (s : State) (l : Level) : (s.writeCs l).soReads = s.soReads := rfl
@[simp] theorem State.writeCs_constructs (s : State) (l : Level) : (s.writeCs l).constructs = s.constructs := rfl
@[simp] theorem State.writeCs_responses (s : State) (l : Level) : (s.writeCs l).responses = s.responses := rfl
@[simp] theorem State.writeCs_trace (s : State) (l : Level) : (s.writeCs l).trace = s.trace ++ [.write .cs s.pins.cs l] := rfl

/-! ### delay -/

@[simp] theorem State.delay_frame (s : State) (us : Nat) : (s.delay us).frame = s.frame := rfl
@[simp] theorem State.delay_tctype (s : State) (us : Nat) : (s.delay us).tctype = s.tctype := rfl
@[simp] theorem State.delay_pins (s : State) (us : Nat) : (s.delay us).pins = s.pins := rfl
@[simp] theorem State.delay_sckOut (s : State) (us : Nat) : (s.delay us).sckOut = s.sckOut := rfl
@[simp] theorem State.delay_csOut (s : State) (us : Nat) : (s.delay us).csOut = s.csOut := rfl
@[simp] theorem State.delay_soDir (s : State) (us : Nat) : (s.delay us).soDir = s.soDir := rfl
@[simp] theorem State.delay_sckDir (s : State) (us : Nat) : (s.delay us).sckDir = s.sckDir := rfl
@[simp] theorem State.delay_csDir (s : State) (us : Nat) : (s.delay us).csDir = s.csDir := rfl
@[simp] theorem State.delay_seq (s : State) (us : Nat) : (s.delay us).seq = s.seq := rfl
@[simp] theorem State.delay_bitIdx (s : State) (us : Nat) : (s.delay us).bitIdx = s.bitIdx := rfl
@[simp] theorem State.delay_sr (s : State) (us : Nat) : (s.delay us).sr = s.sr := rfl
@[simp] theorem State.delay_rst (s : State) (us : Nat) : (s.delay us).rst = s.rst := rfl
@[simp] theorem State.delay_cmds (s : State) (us : Nat) : (s.delay us).cmds = s.cmds := rfl
@[simp] theorem State.delay_soLine (s : State) (us : Nat) : (s.delay us).soLine = s.soLine := rfl
@[simp] theorem State.delay_soReads (s : State) (us : Nat) : (s.delay us).soReads = s.soReads := rfl
@[simp] theorem State.delay_constructs (s : State) (us : Nat) : (s.delay us).constructs = s.constructs := rfl
@[simp] theorem State.delay_responses (s : State) (us : Nat) : (s.delay us).responses = s.responses := rfl
@[simp] theorem State.delay_trace (s : State) (us : Nat) : (s.delay us).trace = s.trace ++ [.delay us] := rfl

/-! ### sample -/

@[simp] theorem State.sample_frame (s : State) : (s.sample).frame = s.frame := rfl
@[simp] theorem State.sample_tctype (s : State) : (s.sample).tctype = s.tctype := rfl
@[simp] theorem State.sample_pins (s : State) : (s.sample).pins = s.pins := rfl
@[simp] theorem State.sample_sckOut (s : State) : (s.sample).sckOut = s.sckOut := rfl
@[simp] theorem State.sample_csOut (s : State) : (s.sample).csOut = s.csOut := rfl
@[simp] theorem State.sample_soDir (s : State) : (s.sample).soDir = s.soDir := rfl
@[simp] theorem State.sample_sckDir (s : State) : (s.sample).sckDir = s.sckDir := rfl
@[simp] theorem State.sample_csDir (s : State) : (s.sample).csDir = s.csDir := rfl
@[simp] theorem State.sample_seq (s : State) : (s.sample).seq = s.seq := rfl
@[simp] theorem State.sample_bitIdx (s : State) : (s.sample).bitIdx = s.bitIdx := rfl
@[simp] theorem State.sample_sr (s : State) : (s.sample).sr = recordLevel s.sr s.bitIdx (s.draw 0) := rfl
@[simp] theorem State.sample_rst (s : State) : (s.sample).rst = s.rst := rfl
@[simp] theorem State.sample_cmds (s : State) : (s.sample).cmds = s.cmds := rfl
@[simp] theorem State.sample_soLine (s : State) : (s.sample).soLine = s.soLine.tail := rfl
@[simp] theorem State.sample_soReads (s : State) : (s.sample).soReads = s.soReads + 1 := rfl
@[simp] theorem State.sample_constructs (s : State) : (s.sample).constructs = s.constructs := rfl
@[simp] theorem State.sample_responses (s : State) : (s.sample).responses = s.responses := rfl
@[simp] theorem State.sample_trace (s : State) : (s.sample).trace = s.trace ++ [.read s.pins.so (s.draw 0)] := rfl

/-! ### commit -/

@[simp] theorem State.commit_frame (s : State) : (s.commit).frame = s.sr := rfl
@[simp] theorem State.commit_tctype (s : State) : (s.commit).tctype = s.tctype := rfl
@[simp] theorem State.commit_pins (s : State) : (s.commit).pins = s.pins := rfl
@[simp] theorem State.commit_sckOut (s : State) : (s.commit).sckOut = s.sckOut := rfl
@[simp] theorem State.commit_csOut (s : State) : (s.commit).csOut = s.csOut := rfl
@[simp] theorem State.commit_soDir (s : State) : (s.commit).soDir = s.soDir := rfl
@[simp] theorem State.commit_sckDir (s : State) : (s.commit).sckDir = s.sckDir := rfl
@[simp] theorem State.commit_csDir (s : State) : (s.commit).csDir = s.csDir := rfl
@[simp] theorem State.commit_seq (s : State) : (s.commit).seq = s.seq := rfl
@[simp] theorem State.commit_bitIdx (s : State) : (s.commit).bitIdx = s.bitIdx := rfl
@[simp] theorem State.commit_sr (s : State) : (s.commit).sr = s.sr := rfl
@[simp] theorem State.commit_rst (s : State) : (s.commit).rst = s.rst := rfl
@[simp] theorem State.commit_cmds (s : State) : (s.commit).cmds = s.cmds := rfl
@[simp] theorem State.commit_soLine (s : State) : (s.commit).soLine = s.soLine := rfl
@[simp] theorem State.commit_soReads (s : State) : (s.commit).soReads = s.soReads := rfl
@[simp] theorem State.commit_constructs (s : State) : (s.commit).constructs = s.constructs := rfl
@[simp] theorem State.commit_responses (s : State) : (s.commit).responses = s.responses ++ [.ok (validFlag s.sr) 0#64 none] := rfl
@[simp] theorem State.commit_trace (s : State) : (s.commit).trace = s.trace := rfl

/-! ### clockDelay -/

@[simp] theorem State.clockDelay_frame (s : State) (us : Nat) : (s.clockDelay us).frame = s.frame := by
  unfold State.clockDelay; split <;> rfl
@[simp] theorem State.clockDelay_tctype (s : State) (us : Nat) : (s.clockDelay us).tctype = s.tctype := by
  unfold State.clockDelay; split <;> rfl
@[simp] theorem State.clockDelay_pins (s : State) (us : Nat) : (s.clockDelay us).pins = s.pins := by
  unfold State.clockDelay; split <;> rfl
@[simp] theorem State.clockDelay_sckOut (s : State) (us : Nat) : (s.clockDelay us).sckOut = s.sckOut := by
  unfold State.clockDelay; split <;> rfl
@[simp] theorem State.clockDelay_csOut (s : State) (us : Nat) : (s.clockDelay us).csOut = s.csOut := by
  unfold State.clockDelay; split <;> rfl
@[simp] theorem State.clockDelay_soDir (s : State) (us : Nat) : (s.clockDelay us).soDir = s.soDir := by
  unfold State.clockDelay; split <;> rfl
@[simp] theorem State.clockDelay_sckDir (s : State) (us : Nat) : (s.clockDelay us).sckDir = s.sckDir := by
  unfold State.clockDelay; split <;> rfl
@[simp] theorem State.clockDelay_csDir (s : State) (us : Nat) : (s.clockDelay us).csDir = s.csDir := by
  unfold State.clockDelay; split <;> rfl
@[simp] theorem State.clockDelay_seq (s : State) (us : Nat) : (s.clockDelay us).seq = s.seq := by
  unfold State.clockDelay; split <;> rfl
@[simp] theorem State.clockDelay_bitIdx (s : State) (us : Nat) : (s.clockDelay us).bitIdx = s.bitIdx := by
  unfold State.clockDelay; split <;> rfl
@[simp] theorem State.clockDelay_sr (s : State) (us : Nat) : (s.clockDelay us).sr = s.sr := by
  unfold State.clockDelay; split <;> rfl
@[simp] theorem State.clockDelay_rst (s : State) (us : Nat) : (s.clockDelay us).rst = s.rst := by
  unfold State.clockDelay; split <;> rfl
@[simp] theorem State.clockDelay_cmds (s : State) (us : Nat) : (s.clockDelay us).cmds = s.cmds := by
  unfold State.clockDelay; split <;> rfl
@[simp] theorem State.clockDelay_soLine (s : State) (us : Nat) : (s.clockDelay us).soLine = s.soLine := by
  unfold State.clockDelay; split <;> rfl
@[simp] theorem State.clockDelay_soReads (s : State) (us : Nat) : (s.clockDelay us).soReads = s.soReads := by
  unfold State.clockDelay; split <;> rfl
@[simp] theorem State.clockDelay_constructs (s : State) (us : Nat) : (s.clockDelay us).constructs = s.constructs := by
  unfold State.clockDelay; split <;> rfl
@[simp] theorem State.clockDelay_responses (s : State) (us : Nat) : (s.clockDelay us).responses = s.responses := by
  unfold State.clockDelay; split <;> rfl
@[simp] theorem State.clockDelay_trace (s : State) (us : Nat) :
    (s.clockDelay us).trace = s.trace ++ clockDelayEvents us := by
  by_cases h : us = 0 <;> simp [State.clockDelay, clockDelayEvents, h, State.delay]

/-- A clock-phase delay only adds to the trace. -/
theorem State.clockDelay_eq (s : State) (us : Nat) :
    s.clockDelay us = { s with trace := s.trace ++ clockDelayEvents us } := by
  by_cases h : us = 0 <;> simp [State.clockDelay, clockDelayEvents, h, State.delay]

/-! ### draw -/

/-- After one read the coming levels move up by one. -/
@[simp] theorem State.sample_draw (s : State) (k : Nat) : s.sample.draw k = s.draw (k + 1) := by
  unfold State.draw
  simp [Nat.add_assoc, Nat.add_comm 1 k]

/-- The coming levels depend on the line and the count of reads only. -/
theorem State.draw_congr {s t : State} (h1 : s.soLine = t.soLine) (h2 : s.soReads = t.soReads) (k : Nat) :
    s.draw k = t.draw k := by
  unfold State.draw; rw [h1, h2]

/-! ### Two states with equal fields are equal -/

/-- Extensionality, field by field. -/
theorem State.eq_of_fields {s t : State}
    (frame : s.frame = t.frame) (tctype : s.tctype = t.tctype) (pins : s.pins = t.pins)
    (sckOut : s.sckOut = t.sckOut) (csOut : s.csOut = t.csOut) (soDir : s.soDir = t.soDir)
    (sckDir : s.sckDir = t.sckDir) (csDir : s.csDir = t.csDir) (seq : s.seq = t.seq)
    (bitIdx : s.bitIdx = t.bitIdx) (sr : s.sr = t.sr) (rst : s.rst = t.rst) (cmds : s.cmds = t.cmds)
    (soLine : s.soLine = t.soLine) (soReads : s.soReads = t.soReads) (constructs : s.constructs = t.constructs)
    (responses : s.responses = t.responses) (trace : s.trace = t.trace) : s = t := by
  cases s; cases t; simp_all

end Sys2Proof.Machine
end

