-- ==== Sys2Proof/Laws/Step.lean ====
section
/-! SUPPORT. What one step can do: the four cases of `stepWith`, the two cases of `construct`, and the eight operations that only
respond. Proofs about a step cite these and do not unfold it. -/

namespace Sys2Proof.Machine

variable {run : Instr → State → Host.Outcome State Fault Refusal}

/-- A reset event comes first. -/
theorem stepWith_reset {s : State} {a : ConstructArgs} (h : s.rst = some a) :
    stepWith run s = construct a { s with rst := none } := by
  simp [stepWith, h]

/-- A running CAPTURE takes its next micro-step. -/
theorem stepWith_busy {s : State} (h : s.rst = none) (hb : s.seq ≠ .idle) :
    stepWith run s = .next s.microStep := by
  simp [stepWith, h, State.busy, hb]

/-- Without a command an idle block stays as it is. -/
theorem stepWith_quiet {s : State} (h : s.rst = none) (hi : s.seq = .idle) (hc : s.cmds = []) :
    stepWith run s = .next s := by
  simp [stepWith, h, State.busy, hi, State.fetch, hc]

/-- An idle block accepts the word presented. -/
theorem stepWith_accept {s : State} {w : Byte} {rest : List Byte} (h : s.rst = none) (hi : s.seq = .idle)
    (hc : s.cmds = w :: rest) : stepWith run s = acceptWord run w { s with cmds := rest } := by
  simp [stepWith, h, State.busy, hi, State.fetch, hc]

/-- The inversion of `stepWith`: one of the four cases holds. -/
theorem stepWith_cases (s : State) :
    (∃ a, s.rst = some a ∧ stepWith run s = construct a { s with rst := none }) ∨
    (s.rst = none ∧ s.seq ≠ .idle ∧ stepWith run s = .next s.microStep) ∨
    (s.rst = none ∧ s.seq = .idle ∧ s.cmds = [] ∧ stepWith run s = .next s) ∨
    (∃ w rest, s.rst = none ∧ s.seq = .idle ∧ s.cmds = w :: rest ∧
      stepWith run s = acceptWord run w { s with cmds := rest }) := by
  rcases Option.eq_none_or_eq_some s.rst with h | ⟨a, h⟩
  · by_cases hi : s.seq = .idle
    · by_cases hc : s.cmds = []
      · exact .inr (.inr (.inl ⟨h, hi, hc, stepWith_quiet h hi hc⟩))
      · obtain ⟨w, rest, hw⟩ := List.exists_cons_of_ne_nil hc
        exact .inr (.inr (.inr ⟨w, rest, h, hi, hw, stepWith_accept h hi hw⟩))
    · exact .inr (.inl ⟨h, hi, stepWith_busy h hi⟩)
  · exact .inl ⟨a, h, stepWith_reset h⟩

/-- The inversion of `construct`: it is refused, or it leaves `constructed` with a distinct binding. -/
theorem construct_cases (a : ConstructArgs) (s : State) :
    (∃ r, construct a s = .refused r) ∨
    (∃ ty, ThermocoupleType.ofCode a.typeCode = some ty ∧ a.pins.distinct = true ∧
      construct a s = .next (s.constructed a.pins ty)) := by
  unfold construct
  split
  · exact .inl ⟨_, rfl⟩
  · rename_i ty h
    split
    · rename_i hd
      exact .inr ⟨ty, h, hd, rfl⟩
    · exact .inl ⟨_, rfl⟩

/-- The response of an operation other than CAPTURE, a function of FRAME and TCTYPE alone (10_state R12). -/
def answer (i : Instr) (f : Frame) (ty : ThermocoupleType) : Response :=
  match i with
  | .capture => .ok false 0#64 none
  | .rawFrame => .ok false (f.setWidth 64) none
  | .faultDesc => .ok false ((subFault f).setWidth 64) (some (faultText (subFault f)))
  | .coldjC => .ok false (scale (coldCode f) kColdC) none
  | .coldjF => .ok false (scaleF (coldCode f) kColdF) none
  | .hotjC => .ok false (scale (hotCode f) kHotC) none
  | .hotjF => .ok false (scaleF (hotCode f) kHotF) none
  | .hotjV => .ok false (scale (hotCode f) kHotV) none
  | .hotjAdj =>
    match ty with
    | .n => .ok false (adjustedResult f) none
    | other => .error (.unsupportedConfiguration other)

/-- Every operation but CAPTURE responds and does nothing else. -/
theorem exec_answers {i : Instr} (h : i ≠ .capture) (s : State) :
    exec i s = .next (s.respond (answer i s.frame s.tctype)) := by
  cases i <;> first | exact absurd rfl h | rfl | skip
  simp only [exec, execHotjAdj, answer, State.respondRes, State.raiseError]
  cases s.tctype <;> rfl

/-- CAPTURE answers a next state, the one its three parts make. -/
theorem exec_capture (s : State) :
    exec .capture s = .next (State.captureLoop 32 s.beginCapture).endCapture := rfl

end Sys2Proof.Machine
end

