-- ==== Sys2Proof/Laws/Capture.lean ====
section
/-! SUPPORT. What the parts of a CAPTURE do: one bit, the loop, and one bit as three micro-steps. -/

namespace Sys2Proof.Machine

/-- The next `n + 1` levels are the next one and the `n` after a read. -/
theorem State.levels_succ {s t : State} (n : Nat) (h : ∀ k, t.draw k = s.draw (k + 1)) :
    s.levels (n + 1) = s.draw 0 :: t.levels n := by
  simp [State.levels, List.range_succ_eq_map, Function.comp_def, h]

@[simp] theorem State.levels_zero (s : State) : s.levels 0 = [] := rfl

@[simp] theorem State.levels_length (s : State) (n : Nat) : (s.levels n).length = n := by
  simp [State.levels]

/-- One iteration of the bit loop, in one record. -/
theorem State.captureBit_eq (s : State) (i : BitVec 5) :
    s.captureBit i = { s with
      bitIdx := i
      sckOut := .low
      sr := recordLevel s.sr i (s.draw 0)
      soLine := s.soLine.tail
      soReads := s.soReads + 1
      trace := s.trace ++ bitEvents s.pins Config.clkHighUs Config.clkLowUs (s.draw 0) } := by
  have hd : ∀ t : State, t.soLine = s.soLine → t.soReads = s.soReads → t.draw 0 = s.draw 0 :=
    fun t h1 h2 => State.draw_congr h1 h2 0
  apply State.eq_of_fields <;> simp [State.captureBit, bitEvents, hd]

/-- Recording a level at bit `n` of a shorter assembly extends it at the front. -/
theorem recordLevel_assemble (sr : BitVec 32) (l : Level) (ls : List Level) (h : ls.length < 32) :
    recordLevel sr (BitVec.ofNat 5 ls.length) l ||| assemble ls = sr ||| assemble (l :: ls) := by
  have hn : (BitVec.ofNat 5 ls.length).toNat = ls.length := by
    simp only [BitVec.toNat_ofNat]; omega
  cases l <;> simp [recordLevel, assemble, levelBit, BitVec.or_assoc, Nat.mod_eq_of_lt h]

/-- The bit loop over `n` bits, in one record: the coming levels are assembled into SR and the rest follows. -/
theorem State.captureLoop_eq : ∀ (n : Nat) (s : State), n ≤ 32 →
    State.captureLoop n s = { s with
      bitIdx := if n = 0 then s.bitIdx else 0#5
      sckOut := if n = 0 then s.sckOut else .low
      sr := s.sr ||| assemble (s.levels n)
      soLine := s.soLine.drop n
      soReads := s.soReads + n
      trace := s.trace ++ (s.levels n).flatMap (bitEvents s.pins Config.clkHighUs Config.clkLowUs) }
  | 0, s, _ => by simp [State.captureLoop, assemble]
  | n + 1, s, h => by
    have hdraw : ∀ k, (s.captureBit (BitVec.ofNat 5 n)).draw k = s.draw (k + 1) := by
      intro k
      rw [← State.sample_draw]
      exact State.draw_congr (by simp [State.captureBit_eq]) (by simp [State.captureBit_eq]) k
    rw [State.captureLoop, State.captureLoop_eq n _ (by omega), State.levels_succ n hdraw]
    have hr := recordLevel_assemble s.sr (s.draw 0) ((s.captureBit (BitVec.ofNat 5 n)).levels n) (by simp; omega)
    simp only [State.levels_length] at hr
    apply State.eq_of_fields <;> simp [State.captureBit_eq] at hr ⊢
    · rintro rfl; rfl
    · exact hr
    · omega

/-- The statements before the loop, in one record. -/
theorem State.beginCapture_eq (s : State) :
    s.beginCapture = { s with
      sckOut := .low
      csOut := .low
      sr := 0#32
      trace := s.trace ++ [.write .sck s.pins.sck .low, .write .cs s.pins.cs .low, .delay Config.settleUs] } := by
  apply State.eq_of_fields <;> simp [State.beginCapture]

/-- The statements after the loop, in one record. -/
theorem State.endCapture_eq (s : State) :
    s.endCapture = { s with
      csOut := .high
      frame := s.sr
      seq := .idle
      trace := s.trace ++ [.write .cs s.pins.cs .high]
      responses := s.responses ++ [.ok (validFlag s.sr) 0#64 none] } := by
  apply State.eq_of_fields <;> simp [State.endCapture]

/-- The coming levels depend on the line and the read counter alone. -/
theorem State.levels_congr {s t : State} (n : Nat) (h1 : t.soLine = s.soLine) (h2 : t.soReads = s.soReads) :
    t.levels n = s.levels n := by
  simp only [State.levels]
  congr 1
  funext k
  exact State.draw_congr h1 h2 k

/-- A whole CAPTURE, in one record. -/
theorem exec_capture_eq (s : State) :
    exec .capture s = .next { s with
      frame := assemble (s.levels 32)
      sckOut := .low
      csOut := .high
      seq := .idle
      bitIdx := 0#5
      sr := assemble (s.levels 32)
      soLine := s.soLine.drop 32
      soReads := s.soReads + 32
      responses := s.responses ++ [.ok (validFlag (assemble (s.levels 32))) 0#64 none]
      trace := s.trace ++ captureEvents s.pins Config.settleUs Config.clkHighUs Config.clkLowUs (s.levels 32) } := by
  rw [exec_capture, State.captureLoop_eq 32 _ (by omega), State.endCapture_eq, State.beginCapture_eq]
  have : ∀ t : State, t.soLine = s.soLine → t.soReads = s.soReads → t.levels 32 = s.levels 32 :=
    fun t h1 h2 => State.levels_congr 32 h1 h2
  congr 1
  apply State.eq_of_fields <;> simp [captureEvents, this]

/-- Micro-steps add up. -/
theorem State.microSteps_add : ∀ (m n : Nat) (s : State),
    State.microSteps (m + n) s = State.microSteps n (State.microSteps m s)
  | 0, n, s => by simp [State.microSteps]
  | m + 1, n, s => by
    rw [Nat.add_right_comm, State.microSteps, State.microSteps_add m n, State.microSteps]

/-- The three micro-steps of one bit do what one iteration of the loop does for that bit, and then move on. -/
theorem State.microSteps_bit {s : State} (h : s.seq = .sRise) :
    State.microSteps 3 s =
      if s.bitIdx = 0#5 then { s.captureBit s.bitIdx with seq := .sCsHigh }
      else { s.captureBit s.bitIdx with bitIdx := s.bitIdx - 1#5, seq := .sRise } := by
  have h1 : s.microStep = s.stepRise := by simp [State.microStep, h]
  have h2 : s.stepRise.microStep = s.stepRise.stepSample := by simp [State.microStep, State.stepRise]
  have h3 : s.stepRise.stepSample.microStep = s.stepRise.stepSample.stepFall := by
    simp [State.microStep, State.stepSample]
  rw [State.microSteps, State.microSteps, State.microSteps, State.microSteps, h1, h2, h3]
  have hd : ∀ t : State, t.soLine = s.soLine → t.soReads = s.soReads → t.draw 0 = s.draw 0 :=
    fun t h1 h2 => State.draw_congr h1 h2 0
  by_cases hb : s.bitIdx = 0#5 <;> apply State.eq_of_fields <;>
    simp [State.stepFall, State.stepSample, State.stepRise, State.captureBit_eq, bitEvents, hb, hd]

end Sys2Proof.Machine
end

