-- ==== Sys2Proof/Laws/PerInstr.lean ====
section
/-! SUPPORT. Facts about every instruction, proved one constructor at a time. -/

namespace Sys2Proof.Laws.RoundTrip

/-- The encoding of a well-formed instruction decodes to it, and no other word does. -/
def Statement (i : Instr) : Prop :=
  i.wf = true ∧ decode (encode i) = .ok i ∧ ∀ w, decode w = .ok i → w = encode i

theorem capture : Statement .capture := by unfold Statement; decide
theorem rawFrame : Statement .rawFrame := by unfold Statement; decide
theorem faultDesc : Statement .faultDesc := by unfold Statement; decide
theorem coldjC : Statement .coldjC := by unfold Statement; decide
theorem coldjF : Statement .coldjF := by unfold Statement; decide
theorem hotjC : Statement .hotjC := by unfold Statement; decide
theorem hotjF : Statement .hotjF := by unfold Statement; decide
theorem hotjV : Statement .hotjV := by unfold Statement; decide
theorem hotjAdj : Statement .hotjAdj := by unfold Statement; decide

end Sys2Proof.Laws.RoundTrip
end

