-- ==== Sys2Proof/Tests/Slice0.lean ====
section
/-! SUPPORT. The model's own tests. Every expected value is from the spec's tables (95_test_vectors, named as V<n>) or worked out from the
rule named. The theorems `witness_…` show states and operands that meet the hypotheses of the statement they are named after. -/

namespace Sys2Proof.Tests

open Sys2Proof.Machine

-- One theorem at a time: each kernel evaluation reserves a thread stack of its own.
set_option Elab.async false

/-! ### Helpers -/

/-- A small state: idle, pins 5, 6, 7, with a frame, a type and a list of command words. -/
def block (f : Frame) (ty : ThermocoupleType) (words : List Byte) : State where
  frame := f
  tctype := ty
  pins := ⟨5, 6, 7⟩
  sckOut := .low
  csOut := .high
  soDir := .input
  sckDir := .output
  csDir := .output
  seq := .idle
  bitIdx := 0#5
  sr := 0#32
  rst := none
  cmds := words
  soLine := []
  soReads := 0
  constructs := 1
  responses := []
  trace := [.write .cs 7 .high, .write .sck 6 .low]

/-- A state at a position of the sequencer, with the lines as they are there. -/
def capturing (q : Seq) (i : BitVec 5) (clock select : Level) : State :=
  { block 0#32 .n [0x08#8] with
    seq := q, bitIdx := i, sckOut := clock, csOut := select
    trace := [.write .cs 7 select, .write .sck 6 clock] }

/-- A state a construct is presented to. -/
def constructing (a : ConstructArgs) : State := { block 0x06401900#32 .k [0x08#8] with rst := some a }

/-- The state an outcome leads to. -/
def after : Host.Outcome State Fault Refusal → Option State
  | .next t => some t
  | .fault _ => none
  | .refused _ => none

/-- The responses given. -/
def said (o : Host.Outcome State Fault Refusal) : Option (List Response) := (after o).map State.responses

/-- The one response that carries only RES. -/
def res (p : Word64) : Option (List Response) := some [.ok false p none]

/-- The levels of a stream, most significant bit first (20_memory R33). -/
def stream (f : BitVec 32) : List Level :=
  (List.range 32).map fun k => if f.getLsbD (31 - k) then .high else .low

/-! ### Well-formedness: each check refuses an ill-formed term -/

theorem test_wf_capture_unit : unitAdmitted .capture .fahrenheit = false := by decide
theorem test_wf_rawFrame_unit : unitAdmitted .rawFrame .voltage = false := by decide
theorem test_wf_faultDesc_unit : unitAdmitted .faultDesc .adjustedCelsius = false := by decide
theorem test_wf_cold_voltage : unitAdmitted .coldj .voltage = false := by decide
theorem test_wf_cold_adjusted : unitAdmitted .coldj .adjustedCelsius = false := by decide
theorem test_wf_every_instruction : ∀ i : Instr, i.wf = true := by intro i; cases i <;> rfl
theorem test_wf_type_seven : ConstructArgs.wf ⟨⟨1, 2, 3⟩, 7#3⟩ = false := by decide
theorem test_wf_so_sck : ConstructArgs.wf ⟨⟨1, 1, 3⟩, 2#3⟩ = false := by decide
theorem test_wf_so_cs : ConstructArgs.wf ⟨⟨1, 2, 1⟩, 2#3⟩ = false := by decide
theorem test_wf_sck_cs : ConstructArgs.wf ⟨⟨1, 2, 2⟩, 2#3⟩ = false := by decide
theorem test_wf_legal : ConstructArgs.wf ⟨⟨1, 2, 3⟩, 6#3⟩ = true := by decide

/-! ### Decoding: the words of 30_encoding R61 bit by bit, 000 OP UNIT, and the reserved words V80 to V87 -/

theorem test_decode_capture : decode 0b00000100#8 = .ok .capture := by decide
theorem test_decode_rawFrame : decode 0b00001000#8 = .ok .rawFrame := by decide
theorem test_decode_faultDesc : decode 0b00001100#8 = .ok .faultDesc := by decide
theorem test_decode_coldjC : decode 0b00010000#8 = .ok .coldjC := by decide
theorem test_decode_coldjF : decode 0b00010001#8 = .ok .coldjF := by decide
theorem test_decode_hotjC : decode 0b00010100#8 = .ok .hotjC := by decide
theorem test_decode_hotjF : decode 0b00010101#8 = .ok .hotjF := by decide
theorem test_decode_hotjV : decode 0b00010110#8 = .ok .hotjV := by decide
theorem test_decode_hotjAdj : decode 0b00010111#8 = .ok .hotjAdj := by decide

theorem test_decode_V80 : decode 0x00#8 = .error .opUnassigned := by decide
theorem test_decode_V81 : decode 0xFF#8 = .error .zNotZero := by decide
theorem test_decode_V82 : decode 0x12#8 = .error .coldUnit := by decide
theorem test_decode_V83 : decode 0x13#8 = .error .coldUnit := by decide
theorem test_decode_V84 : decode 0x05#8 = .error .unitNotZero := by decide
theorem test_decode_V85 : decode 0x18#8 = .error .opUnassigned := by decide
theorem test_decode_V86 : decode 0x24#8 = .error .zNotZero := by decide
theorem test_decode_V87 : decode 0x0D#8 = .error .unitNotZero := by decide

/-- 30_encoding R64: 247 of the 256 words are reserved. -/
theorem test_decode_reserved_count :
    ((List.range 256).filter fun n => (decodeTableWord 8 n).isNone).length = 247 := by decide +kernel

theorem test_decodeTableWord : decodeTableWord 8 0x17 = some .hotjAdj := by decide
theorem test_decodeTableWord_reserved : decodeTableWord 8 0x12 = none := by decide

/-- 30_encoding R59: the type codes, both ways. -/
theorem test_type_codes : ∀ c : BitVec 3,
    (ThermocoupleType.ofCode c).map ThermocoupleType.code = if c = 7#3 then none else some c := by decide

/-! ### Fields, V20 to V29 -/

theorem test_codes_V20 : hotCode 0x06401900#32 = 400 ∧ coldCode 0x06401900#32 = 400 := by decide
theorem test_codes_V22 : hotCode 0x80008000#32 = -8192 ∧ coldCode 0x80008000#32 = -2048 := by decide
theorem test_codes_V24 : hotCode 0x0003000F#32 = 0 ∧ coldCode 0x0003000F#32 = 0 ∧
    faultBit 0x0003000F#32 = true ∧ subFault 0x0003000F#32 = 7#3 := by decide
theorem test_codes_V27 : hotCode 0xFFF0FF00#32 = -4 ∧ coldCode 0xFFF0FF00#32 = -16 := by decide

/-! ### One instruction at a time -/

theorem test_rawFrame_V19 : said (exec .rawFrame (block 0xFFFFFFFF#32 .k [])) = res 0x00000000FFFFFFFF#64 := by decide

theorem test_faultDesc_V13 : said (exec .faultDesc (block 0x00030003#32 .k [])) =
    some [.ok false 3#64 (some (asciiText "Open Circuit Short to GND "))] := by decide
theorem test_faultDesc_V16 : said (exec .faultDesc (block 0xFFFEFFF6#32 .k [])) =
    some [.ok false 6#64 (some (asciiText "Short to GND Short to Vcc "))] := by decide
/-- The bytes of the first phrase, from the ASCII table. -/
theorem test_text_bytes : asciiText "Open " = [0x4F#8, 0x70#8, 0x65#8, 0x6E#8, 0x20#8] := by decide

theorem test_coldjC_V54 : said (exec .coldjC (block 0x0000FFF0#32 .n [])) = res 0xBFB0000000000000#64 := by decide +kernel
theorem test_coldjC_V56 : said (exec .coldjC (block 0x7FFC7FF0#32 .n [])) = res 0x405FFC0000000000#64 := by decide +kernel
theorem test_coldjF_V58 : said (exec .coldjF (block 0xFEE4EE40#32 .n [])) = res 0x3FA9999999999A00#64 := by decide +kernel
theorem test_coldjF_V59 : said (exec .coldjF (block 0x000008F0#32 .n [])) = res 0x40480B3333333334#64 := by decide +kernel
theorem test_hotjC_V61 : said (exec .hotjC (block 0xFFF00000#32 .n [])) = res 0xBFF0000000000000#64 := by decide +kernel
theorem test_hotjC_V62 : said (exec .hotjC (block 0x80000000#32 .n [])) = res 0xC0A0000000000000#64 := by decide +kernel
theorem test_hotjF_V69 : said (exec .hotjF (block 0xFEE0EE30#32 .n [])) = res 0xBFD9999999999980#64 := by decide +kernel
theorem test_hotjF_V70 : said (exec .hotjF (block 0x00940000#32 .n [])) = res 0x4048533333333334#64 := by decide +kernel
theorem test_hotjV_V67 : said (exec .hotjV (block 0x7FFC7FF0#32 .k [])) = res 0x40F2203395810625#64 := by decide +kernel
theorem test_hotjV_V71 : said (exec .hotjV (block 0x002C0000#32 .r [])) = res 0x4058ED0E56041894#64 := by decide +kernel
theorem test_hotjAdj_V30 : said (exec .hotjAdj (block 0x06401900#32 .n [])) = res 0x40606E55D02900E2#64 := by decide +kernel
theorem test_hotjAdj_V37 : said (exec .hotjAdj (block 0x80008000#32 .n [])) = res 0xC124A429E25A45A3#64 := by decide +kernel

/-- V30's intermediate values va, v and ta. -/
theorem test_hotjAdj_V30_steps :
    cjcVoltage 0x06401900#32 = 0x4084952AAFF6DF35#64 ∧ adjustedVoltage 0x06401900#32 = 0x40A72DE887357B66#64 ∧
      adjustedTemp 0x06401900#32 = 0x405A9CABA05201C5#64 := by decide +kernel

/-- V46: under type K the adjusted query is an unsupported configuration. -/
theorem test_hotjAdj_V46 : said (exec .hotjAdj (block 0x06401900#32 .k [])) =
    some [.error (.unsupportedConfiguration .k)] := by decide

/-! ### Binary64: signed zeros, the overflow boundary and a tie, from IEEE 754 -/

theorem test_b64_neg_zero : Binary64.mul 0x8000000000000000#64 0x3FF0000000000000#64 = 0x8000000000000000#64 := by decide +kernel
theorem test_b64_cancel : Binary64.sub 0x4039000000000000#64 0x4039000000000000#64 = 0#64 := by decide +kernel
theorem test_b64_tie : Binary64.add 0x3FF0000000000001#64 0x3CA0000000000000#64 = 0x3FF0000000000002#64 := by decide +kernel
theorem test_b64_overflow : Binary64.mul 0x7FEFFFFFFFFFFFFF#64 0x4000000000000000#64 = 0x7FF0000000000000#64 := by decide +kernel
theorem test_b64_subnormal : Binary64.mul 0x0010000000000000#64 0x3FE0000000000000#64 = 0x0008000000000000#64 := by decide +kernel

/-! ### CAPTURE -/

/-- S7: the stream 0x06401900 is stored, valid. -/
theorem test_capture_S7 : ∃ t, exec .capture { block 0#32 .n [] with soLine := stream 0x06401900#32 } = .next t ∧
    t.frame = 0x06401900#32 ∧ t.responses = [.ok true 0#64 none] ∧ t.soLine = [] := by
  refine ⟨_, exec_capture_eq _, ?_, ?_, ?_⟩ <;> decide

/-- 40_capture R84 to R87: only the second sample is HIGH, so bit 30 alone. -/
theorem test_capture_second_sample :
    ∃ t, exec .capture { block 0xFFFFFFFF#32 .n [] with soLine := .low :: .high :: List.replicate 30 .low } = .next t ∧
      t.frame = 0x40000000#32 := by
  refine ⟨_, exec_capture_eq _, ?_⟩; decide

/-- 40_capture R90: the sampling step takes one level and records it at BITIDX. -/
theorem test_sample_step :
    (after (lineStep { capturing .sSample 16#5 .high .low with soLine := [.high, .low] })).map
      (fun t => (t.sr, t.soLine, t.seq)) = some (0x00010000#32, [.low], .sFall) := by decide

/-! ### Construct and the step -/

/-- V90: the five pin calls in R180's order. -/
theorem test_construct_V90 : (after (step (constructing ⟨⟨1, 2, 3⟩, 2#3⟩))).map
      (fun t => (newEvents (constructing ⟨⟨1, 2, 3⟩, 2#3⟩) t, t.tctype, t.pins)) =
    some ([.mode .cs 3 .output, .write .cs 3 .high, .mode .sck 2 .output, .write .sck 2 .low, .mode .so 1 .input],
      .n, ⟨1, 2, 3⟩) := by decide

/-- V93: type 7 is refused. -/
theorem test_construct_V93 : step (constructing ⟨⟨1, 2, 3⟩, 7#3⟩) = .refused .reservedThermocoupleType := rfl

/-- A command placed while a CAPTURE runs is the very next one. -/
theorem test_withFetchWord : said (step ((capturing .sRise 3#5 .low .low).withFetchWord 8 0x08)) = res 0#64 := by decide

/-- V82: a reserved word answers ILLEGAL_COMMAND and leaves the frame. -/
theorem test_step_V82 : (after (step (block 0x06401900#32 .n [0x12#8, 0x08#8]))).map
      (fun t => (t.responses, t.frame, t.cmds)) =
    some ([.error (.illegalCommand 0x12#8)], 0x06401900#32, [0x08#8]) := by decide

/-- 20_memory R37: while BUSY no command is accepted. -/
theorem test_step_busy : (after (step (capturing .sCsLow 0#5 .low .high))).map (fun t => (t.cmds, t.csOut)) =
    some ([0x08#8], .low) := by decide

/-! ### Witnesses -/

/-- The hypotheses shared by the statements about an idle block that accepts a word. -/
theorem idle_block (f : Frame) (ty : ThermocoupleType) (w : Byte) (rest : List Byte) :
    (block f ty (w :: rest)).rst = none ∧ (block f ty (w :: rest)).seq = .idle ∧ (block f ty (w :: rest)).cmds = w :: rest :=
  ⟨rfl, rfl, rfl⟩

theorem witness_ReservedWordIsIllegalCommand :
    ∀ w ∈ [0x00#8, 0x03#8, 0x05#8, 0x07#8, 0x12#8, 0x18#8, 0x24#8, 0xFF#8],
      ((block 0#32 .n [w]).rst = none ∧ (block 0#32 .n [w]).seq = .idle ∧ (block 0#32 .n [w]).cmds = w :: []) ∧
      w ∉ [0x04#8, 0x08#8, 0x0C#8, 0x10#8, 0x11#8, 0x14#8, 0x15#8, 0x16#8, 0x17#8] := by decide

theorem witness_StepRunsTheDecodedOperation :
    ((block 0#32 .n [0x17#8]).rst = none ∧ (block 0#32 .n [0x17#8]).seq = .idle ∧
      (block 0#32 .n [0x17#8]).cmds = 0x17#8 :: []) ∧ decode 0x17#8 = .ok .hotjAdj ∧ Instr.hotjAdj.wf = true := by decide

theorem witness_QuietBlockStays :
    (block 0#32 .n []).rst = none ∧ (block 0#32 .n []).seq = .idle ∧ (block 0#32 .n []).cmds = [] := by decide

theorem witness_EveryCommandGetsOneResponse :
    (∀ w : Byte, (block 0#32 .n [w]).rst = none ∧ (block 0#32 .n [w]).seq = .idle ∧ (block 0#32 .n [w]).cmds = w :: []) :=
  fun w => idle_block 0#32 .n w []

/-- The first micro-step, where more follow, and the last, where none does. -/
theorem witness_BusyBlockHoldsCommands :
    ((capturing .sPre 0#5 .low .high).rst = none ∧ (capturing .sPre 0#5 .low .high).seq ≠ .idle ∧
      (after (step (capturing .sPre 0#5 .low .high))).map State.seq = some .sCsLow) ∧
    ((capturing .sCsHigh 0#5 .low .low).rst = none ∧ (capturing .sCsHigh 0#5 .low .low).seq ≠ .idle ∧
      (after (step (capturing .sCsHigh 0#5 .low .low))).map State.seq = some .idle) := by decide

theorem witness_CaptureLeavesTheRest : ∃ t, exec .capture (block 0#32 .n []) = .next t := ⟨_, rfl⟩

/-- Both ends of the accumulator. -/
theorem witness_AccumulatorRecordsEachSample :
    recordLevel 0#32 0#5 .high = 1#32 ∧ recordLevel 0#32 31#5 .high = 0x80000000#32 ∧ recordLevel 0#32 31#5 .low = 0#32 := by
  decide

theorem witness_CaptureTraceIsExact :
    (List.replicate 32 Level.high).length = 32 ∧ (1 : Nat) ≠ 0 ∧
    ((block 0#32 .k [0x17#8]).rst = none ∧ (block 0#32 .k [0x17#8]).seq = .idle ∧
      (block 0#32 .k [0x17#8]).cmds.head? ≠ some 0x04#8 ∧ (after (step (block 0#32 .k [0x17#8]))).isSome = true) ∧
    ((block 0#32 .k []).cmds.head? ≠ some 0x04#8 ∧ (after (step (block 0#32 .k []))).isSome = true) := by decide

theorem witness_CaptureCornerCases :
    (∀ k, k < 32 → ({ block 0#32 .n [] with soLine := List.replicate 32 .low } : State).draw k = .low) ∧
    (∀ k, k < 32 → ({ block 0#32 .n [] with soLine := List.replicate 32 .high } : State).draw k = .high) ∧
    (∀ k, k < 32 → ({ block 0#32 .n [] with soLine := stream 0x00010000#32 } : State).draw k =
      if k = 15 then .high else .low) ∧
    (∃ t, exec .capture (block 0#32 .n []) = .next t) := by
  refine ⟨by decide, by decide, by decide, ⟨_, rfl⟩⟩

theorem witness_MicroStepsRefineAtomicCapture :
    (block 0#32 .n [0x04#8, 0x08#8]).rst = none ∧ (block 0#32 .n [0x04#8, 0x08#8]).seq = .idle ∧
      (block 0#32 .n [0x04#8, 0x08#8]).cmds = 0x04#8 :: [0x08#8] := idle_block 0#32 .n 0x04#8 [0x08#8]

/-- One state for each row; for the two rows of S_FALL the bit indexes 31 and 1, and 0. -/
theorem witness_SequencerFollowsItsTable :
    ((block 0#32 .n [0x04#8]).rst = none ∧ (block 0#32 .n [0x04#8]).seq = .idle ∧ (block 0#32 .n [0x04#8]).cmds = 0x04#8 :: []) ∧
    (∀ q : Seq, ∀ i ∈ [31#5, 1#5, 0#5], (capturing q i .high .low).rst = none ∧ (capturing q i .high .low).seq = q ∧
      (capturing q i .high .low).bitIdx = i) ∧
    (1 ≤ 1 ∧ 1 < 101 ∧ 1 ≤ 100 ∧ 100 < 101) :=
  ⟨idle_block 0#32 .n 0x04#8 [], fun _ _ _ => ⟨rfl, rfl, rfl⟩, by decide⟩

theorem witness_RunningCaptureAlwaysEnds :
    (capturing .sRise 31#5 .low .low).rst = none ∧ (capturing .sRise 31#5 .low .low).seq ≠ .idle ∧
    (0 < (capturing .sRise 31#5 .low .low).remaining ∧ 96 < (capturing .sRise 31#5 .low .low).remaining) := by decide

/-- A sound idle block, and sound states within a CAPTURE. -/
theorem sound_block (f : Frame) (ty : ThermocoupleType) (words : List Byte) : Sound (block f ty words) :=
  ⟨rfl, rfl, ⟨rfl, rfl, rfl⟩, rfl, rfl, rfl⟩

theorem sound_capturing (q : Seq) (i : BitVec 5) : Sound (capturing q i (linesAt q).1 (linesAt q).2) :=
  ⟨rfl, Nat.zero_mod _, ⟨rfl, rfl, rfl⟩, rfl, rfl, rfl⟩

theorem witness_EveryStepKeepsSound :
    (Sound (block 0#32 .n [0x08#8]) ∧ (after (step (block 0#32 .n [0x08#8]))).isSome = true) ∧
    (Sound (capturing .sFall 0#5 .high .low) ∧ (after (step (capturing .sFall 0#5 .high .low))).isSome = true) :=
  ⟨⟨sound_block _ _ _, by decide⟩, ⟨sound_capturing .sFall 0#5, rfl⟩⟩

theorem witness_EveryLineStepKeepsSound :
    ∀ q : Seq, Sound (capturing q 31#5 (linesAt q).1 (linesAt q).2) ∧
      ∃ t, lineStep (capturing q 31#5 (linesAt q).1 (linesAt q).2) = .next t :=
  fun q => ⟨sound_capturing q 31#5, by cases q <;> exact ⟨_, rfl⟩⟩

theorem witness_ClockHighOnlyUnderChipSelect :
    (Sound (block 0#32 .n []) ∧ (block 0#32 .n []).seq = .idle) ∧
    (Sound (capturing .sSample 31#5 .high .low) ∧ (capturing .sSample 31#5 .high .low).sckOut = .high) :=
  ⟨⟨sound_block _ _ _, rfl⟩, ⟨sound_capturing .sSample 31#5, rfl⟩⟩

/-- A clock rise, a read, and the two chip-select writes. -/
theorem witness_LineEventsKeepTheirOrder :
    (Sound (capturing .sRise 31#5 .low .low) ∧ ∃ t, lineStep (capturing .sRise 31#5 .low .low) = .next t ∧
      .write .sck 6 .high ∈ newEvents (capturing .sRise 31#5 .low .low) t) ∧
    (Sound (capturing .sSample 0#5 .high .low) ∧ ∃ t l, lineStep (capturing .sSample 0#5 .high .low) = .next t ∧
      .read 5 l ∈ newEvents (capturing .sSample 0#5 .high .low) t) ∧
    (Sound (capturing .sCsLow 0#5 .low .high) ∧ ∃ t, lineStep (capturing .sCsLow 0#5 .low .high) = .next t ∧
      .write .cs 7 .low ∈ newEvents (capturing .sCsLow 0#5 .low .high) t) ∧
    (Sound (capturing .sCsHigh 0#5 .low .low) ∧ ∃ t, lineStep (capturing .sCsHigh 0#5 .low .low) = .next t ∧
      .write .cs 7 .high ∈ newEvents (capturing .sCsHigh 0#5 .low .low) t) := by
  refine ⟨⟨sound_capturing .sRise 31#5, _, rfl, ?_⟩, ⟨sound_capturing .sSample 0#5, _, _, rfl, List.mem_singleton.2 rfl⟩,
    ⟨sound_capturing .sCsLow 0#5, _, rfl, by decide⟩, ⟨sound_capturing .sCsHigh 0#5, _, rfl, by decide⟩⟩
  simp [capturing, block, State.microStep, State.stepRise, newEvents]

/-- The first and the last type code; the statements about construct share these hypotheses. -/
theorem witness_ConstructLeavesTheResetState :
    ∀ c ∈ [0#3, 6#3], (constructing ⟨⟨1, 2, 3⟩, c⟩).rst = some ⟨⟨1, 2, 3⟩, c⟩ ∧ c ≠ 7#3 ∧
      PinBinding.distinct ⟨1, 2, 3⟩ = true := by decide

theorem witness_ConstructMakesFivePinCalls :
    (constructing ⟨⟨0, 1, 2⟩, 2#3⟩).rst = some ⟨⟨0, 1, 2⟩, 2#3⟩ ∧ 2#3 ≠ 7#3 ∧ PinBinding.distinct ⟨0, 1, 2⟩ = true := by decide

theorem witness_ConstructRefusesReservedArguments :
    ((constructing ⟨⟨1, 1, 1⟩, 7#3⟩).rst = some ⟨⟨1, 1, 1⟩, 7#3⟩) ∧
    (∀ p ∈ [(⟨1, 1, 2⟩ : PinBinding), ⟨1, 2, 1⟩, ⟨2, 1, 1⟩], (constructing ⟨p, 6#3⟩).rst = some ⟨p, 6#3⟩ ∧ 6#3 ≠ 7#3 ∧
      (p.so = p.sck ∨ p.so = p.cs ∨ p.sck = p.cs)) := by decide

theorem witness_ConfigurationNeverChanges :
    ((block 0#32 .n [0x08#8]).rst = none ∧ ∃ t, step (block 0#32 .n [0x08#8]) = .next t) ∧
    ((capturing .sRise 31#5 .low .low).rst = none ∧ ∃ t, lineStep (capturing .sRise 31#5 .low .low) = .next t) :=
  ⟨⟨rfl, _, rfl⟩, ⟨rfl, _, rfl⟩⟩

theorem witness_OnlyCaptureWritesFrame :
    ((block 7#32 .n [0x08#8]).rst = none ∧ (block 7#32 .n [0x08#8]).seq = .idle ∧
      (block 7#32 .n [0x08#8]).cmds.head? ≠ some 0x04#8 ∧ ∃ t, step (block 7#32 .n [0x08#8]) = .next t) ∧
    ((capturing .sFall 0#5 .high .low).rst = none ∧ (capturing .sFall 0#5 .high .low).seq ≠ .idle ∧
      (capturing .sFall 0#5 .high .low).seq ≠ .sCsHigh ∧ ∃ t, lineStep (capturing .sFall 0#5 .high .low) = .next t) :=
  ⟨⟨rfl, rfl, by decide, _, rfl⟩, ⟨rfl, by decide, by decide, _, rfl⟩⟩

theorem witness_DecodeOperationsAreRepeatable : Instr.rawFrame ≠ .capture ∧ Instr.hotjAdj ≠ .capture := by decide

theorem witness_TypeMattersToHotjAdjOnly : Instr.capture ≠ .hotjAdj ∧ Instr.hotjV ≠ .hotjAdj := by decide

theorem witness_HotCodeIsSignedTopField :
    ∀ i, 18 ≤ i → i < 32 → (0x8003FFFF#32).getLsbD i = (0x80000000#32).getLsbD i := by decide

theorem witness_ColdCodeIsSignedMaskedField :
    ∀ i, 4 ≤ i → i < 16 → (0xFFFF800F#32).getLsbD i = (0x00008000#32).getLsbD i := by decide

/-- The ends of both code ranges and of the other bits. -/
theorem witness_CodesRoundTrip :
    ((-8192 : Int) ≤ -8192 ∧ (8191 : Int) ≤ 8191 ∧ 0 < 2 ^ 18 ∧ 2 ^ 18 - 1 < 2 ^ 18) ∧
    ((-2048 : Int) ≤ -2048 ∧ (2047 : Int) ≤ 2047 ∧ 2 ^ 16 - 1 < 2 ^ 16 ∧ 15 < 16) := by decide

theorem witness_FaultDescReadsThreeBits :
    (∀ i, i < 3 → (block 0x06421905#32 .n []).frame.getLsbD i = (block 0x00000005#32 .n []).frame.getLsbD i) ∧
    (block 0x06421905#32 .n []).responses = [] ∧ (block 0x00000005#32 .n []).responses = [] ∧
    ∃ u, exec .faultDesc (block 0x06421905#32 .n []) = .next u :=
  ⟨by decide, rfl, rfl, _, rfl⟩

theorem witness_FaultTextTable : (0b001#3 : BitVec 3) ≠ 0#3 ∧ (0b111#3 : BitVec 3) ≠ 0#3 := by decide

/-- 1 + 2^-53 is a tie between 1 and its successor; a product and a difference beside it. -/
theorem witness_ArithmeticIsCorrectlyRounded :
    (Binary64.isFinite 0x3FF0000000000000#64 = true ∧ Binary64.isFinite 0x3CA0000000000000#64 = true) ∧
    (Binary64.add 0x3FF0000000000000#64 0x3CA0000000000000#64 = 0x3FF0000000000000#64 ∧
      Binary64.mul 0x3FF0000000000000#64 0x3CA0000000000000#64 = 0x3CA0000000000000#64 ∧
      Binary64.sub 0x3FF0000000000000#64 0x3FF0000000000000#64 = 0#64) ∧
    (Binary64.isFinite 0x3FF0000000000001#64 = true ∧
      Binary64.value 0x3FF0000000000001#64 ≠ Binary64.value 0x3FF0000000000000#64 ∧
      Binary64.value 0x3FF0000000000000#64 + Binary64.value 0x3CA0000000000000#64 - Binary64.value 0x3FF0000000000000#64 =
        Binary64.value 0x3FF0000000000001#64 -
          (Binary64.value 0x3FF0000000000000#64 + Binary64.value 0x3CA0000000000000#64)) := by decide +kernel

theorem witness_TablePatternsAreNearestToLiterals :
    kHotV ∈ [kHotC, kHotF, kHotV, kColdC, kColdF, kFOff] ++ tableA ++ tableB := by decide

/-- Frames of the cold codes that the statements about COLDJ.C and COLDJ.F single out. -/
theorem witness_ColdCelsiusIsExact :
    coldCode (block 0#32 .n []).frame = 0 ∧ coldCode (block 0x80008000#32 .n []).frame = -2048 ∧
      coldCode (block 0x7FFC7FF0#32 .n []).frame = 2047 ∧ (block 0x00000100#32 .n []).frame = 0x00000100#32 := by decide

theorem witness_ColdFahrenheitIsClose :
    coldCode (block 0x00010000#32 .k []).frame = 0 ∧ coldCode (block 0x00008000#32 .k []).frame = -2048 ∧
      coldCode (block 0x00007FF0#32 .k []).frame = 2047 ∧ (block 0x00001900#32 .k []).frame = 0x00001900#32 := by decide

/-- Frames of the hot codes that the statements about HOTJ.C, HOTJ.F and HOTJ.V single out. -/
theorem witness_HotCelsiusIsExact :
    hotCode (block 0#32 .n []).frame = 0 ∧ hotCode (block 0x80008000#32 .n []).frame = -8192 ∧
      hotCode (block 0x7FFC7FF0#32 .n []).frame = 8191 ∧ (block 0x00100000#32 .n []).frame = 0x00100000#32 ∧
      (block 0xFFF00000#32 .n []).frame = 0xFFF00000#32 := by decide

theorem witness_HotFahrenheitIsClose :
    hotCode (block 0x0003FFFF#32 .k []).frame = 0 ∧ hotCode (block 0x80000000#32 .k []).frame = -8192 ∧
      hotCode (block 0x7FFC0000#32 .k []).frame = 8191 ∧ hotCode (block 0x06400000#32 .k []).frame = 400 ∧
      hotCode (block 0x00100000#32 .k []).frame = 4 := by decide

theorem witness_HotVoltageIsClose :
    hotCode (block 0x00010000#32 .r []).frame = 0 ∧ hotCode (block 0x80000000#32 .r []).frame = -8192 ∧
      hotCode (block 0x7FFC0000#32 .r []).frame = 8191 ∧ hotCode (block 0x06400000#32 .r []).frame = 400 ∧
      hotCode (block 0x00100000#32 .r []).frame = 4 := by decide

/-- The ends of both ranges. -/
theorem witness_LinearResultsAreOrdered :
    ((-2048 : Int) ≤ -2048 ∧ (-2048 : Int) < 2047 ∧ (2046 : Int) < 2047 ∧ (2047 : Int) ≤ 2047) ∧
    ((-8192 : Int) ≤ -8192 ∧ (-8192 : Int) < 8191 ∧ (8190 : Int) < 8191 ∧ (8191 : Int) ≤ 8191) := by decide

theorem witness_AdjustedResultFollowsItsSequence : (block 0x06401900#32 .n []).tctype = .n := rfl

theorem witness_OtherTypesAreUnsupported :
    ∀ ty ∈ [ThermocoupleType.k, .j, .t, .e, .s, .r], (block 0#32 ty []).tctype ≠ .n := by decide

/-- V30 and V45 have the same codes; V24 has both codes 0. -/
theorem witness_AdjustedResultDependsOnCodesOnly :
    ((block 0x06401900#32 .n []).tctype = .n ∧ (block 0x0642190F#32 .n []).tctype = .n ∧
      hotCode (block 0x06401900#32 .n []).frame = hotCode (block 0x0642190F#32 .n []).frame ∧
      coldCode (block 0x06401900#32 .n []).frame = coldCode (block 0x0642190F#32 .n []).frame ∧
      (block 0x06401900#32 .n []).responses = (block 0x0642190F#32 .n []).responses) ∧
    (∃ u, exec .hotjAdj (block 0x06401900#32 .n []) = .next u) ∧
    ((block 0x0003000F#32 .n []).tctype = .n ∧ hotCode (block 0x0003000F#32 .n []).frame = 0 ∧
      coldCode (block 0x0003000F#32 .n []).frame = 0) :=
  ⟨by decide, ⟨_, rfl⟩, by decide⟩

end Sys2Proof.Tests
end

section
/-! PROOFS. The bits of a captured frame, and what CAPTURE stores and answers (20_memory R33, 40_capture R88). -/

namespace Sys2Proof.Machine

/-- A level stands at its own bit and nowhere else. -/
theorem getLsbD_levelBit (l : Level) (n : Nat) {i : Nat} (hi : i < 32) :
    (levelBit l n).getLsbD i = decide (i = n ∧ l = .high) := by
  cases l with
  | low => simp [levelBit]
  | high =>
    have hbit : n ≤ i ∧ i - n = 0 ↔ i = n := by omega
    rw [Bool.eq_iff_iff]
    simpa [levelBit, hi] using hbit

/-- Bit `i` of an assembly is the `i`-th level from the end, and 0 beyond the list. -/
theorem getLsbD_assemble (ls : List Level) {i : Nat} (hi : i < 32) :
    (assemble ls).getLsbD i = decide (ls.reverse[i]? = some .high) := by
  induction ls with
  | nil => simp [assemble]
  | cons l ls ih =>
    rw [assemble, BitVec.getLsbD_or, getLsbD_levelBit l _ hi, ih, List.reverse_cons]
    rcases Nat.lt_trichotomy i ls.length with h | rfl | h
    · have hin : (ls.reverse ++ [l])[i]? = ls.reverse[i]? := List.getElem?_append_left (by simpa using h)
      simp [hin, h.ne]
    · simp
    · have hout : (ls.reverse ++ [l])[i]? = none := by simp; omega
      simp [hout, h.ne', h.le]

/-- Of `n` assembled levels of the line the k-th stands at bit `n - 1 - k`. -/
theorem State.getLsbD_assemble_levels (s : State) {n k : Nat} (hn : n ≤ 32) (hk : k < n) :
    (assemble (s.levels n)).getLsbD (n - 1 - k) = decide (s.draw k = .high) := by
  have hrev : (s.levels n).reverse[n - 1 - k]? = some (s.draw k) := by
    rw [List.getElem?_reverse (by simp; omega), State.levels_length, show n - 1 - (n - 1 - k) = k by omega]
    simp [State.levels, hk]
  rw [getLsbD_assemble _ (by omega), hrev]
  simp

/-- Settles O11: FRAME holds the assembly of the 32 levels drawn, whose bits `State.getLsbD_assemble_levels` reads off. -/
theorem captureStoresTheSamples : Obligations.CaptureStoresTheSamples := by
  intro s
  refine ⟨_, exec_capture_eq s, fun k hk => ?_, rfl, rfl, rfl, rfl⟩
  exact s.getLsbD_assemble_levels (n := 32) le_rfl hk

end Sys2Proof.Machine
end

section
/-! PROOFS. The rows of the sequencer's table (40_capture R90): what each micro-step writes, how many are left after it, and the
run in the lines' view from the acceptance of CAPTURE to IDLE. -/

namespace Sys2Proof.Machine

/-! ### One equation per row -/

theorem State.microStep_sPre {s : State} (h : s.seq = .sPre) :
    s.microStep = { s with
      sckOut := .low, sr := 0#32, trace := s.trace ++ [.write .sck s.pins.sck .low], seq := .sCsLow } := by
  simp only [State.microStep, h]; rfl

theorem State.microStep_sCsLow {s : State} (h : s.seq = .sCsLow) :
    s.microStep = { s with csOut := .low, trace := s.trace ++ [.write .cs s.pins.cs .low], seq := .sSettle } := by
  simp only [State.microStep, h]; rfl

theorem State.microStep_sSettle {s : State} (h : s.seq = .sSettle) :
    s.microStep = { s with bitIdx := 31#5, trace := s.trace ++ [.delay Config.settleUs], seq := .sRise } := by
  simp only [State.microStep, h]; rfl

theorem State.microStep_sRise {s : State} (h : s.seq = .sRise) :
    s.microStep = { s with
      sckOut := .high, seq := .sSample
      trace := s.trace ++ [.write .sck s.pins.sck .high] ++ clockDelayEvents Config.clkHighUs } := by
  simp only [State.microStep, h, State.stepRise, State.clockDelay_eq]; rfl

theorem State.microStep_sSample {s : State} (h : s.seq = .sSample) :
    s.microStep = { s with
      sr := recordLevel s.sr s.bitIdx (s.draw 0), soLine := s.soLine.tail, soReads := s.soReads + 1
      trace := s.trace ++ [.read s.pins.so (s.draw 0)], seq := .sFall } := by
  simp only [State.microStep, h]; rfl

theorem State.microStep_sFall_next {s : State} (h : s.seq = .sFall) (hb : s.bitIdx ≠ 0#5) :
    s.microStep = { s with
      sckOut := .low, bitIdx := s.bitIdx - 1#5, seq := .sRise
      trace := s.trace ++ [.write .sck s.pins.sck .low] ++ clockDelayEvents Config.clkLowUs } := by
  simp only [State.microStep, h, State.stepFall, if_neg hb, State.clockDelay_eq]; rfl

theorem State.microStep_sFall_last {s : State} (h : s.seq = .sFall) (hb : s.bitIdx = 0#5) :
    s.microStep = { s with
      sckOut := .low, seq := .sCsHigh
      trace := s.trace ++ [.write .sck s.pins.sck .low] ++ clockDelayEvents Config.clkLowUs } := by
  simp only [State.microStep, h, State.stepFall, if_pos hb, State.clockDelay_eq]; rfl

theorem State.microStep_sCsHigh {s : State} (h : s.seq = .sCsHigh) :
    s.microStep = { s with
      csOut := .high, frame := s.sr, seq := .idle
      trace := s.trace ++ [.write .cs s.pins.cs .high]
      responses := s.responses ++ [.ok (!s.sr.getLsbD 16) 0#64 none] } := by
  simp only [State.microStep, h]; rfl

/-! ### The micro-steps left -/

theorem State.remaining_eq_zero {s : State} : s.remaining = 0 ↔ s.seq = .idle := by
  cases h : s.seq <;> simp [State.remaining, h]

/-- A micro-step presents no reset event and takes none away. -/
@[simp] theorem State.microStep_rst (s : State) : s.microStep.rst = s.rst := by
  cases h : s.seq with
  | idle => simp only [State.microStep, h]
  | sPre => rw [State.microStep_sPre h]
  | sCsLow => rw [State.microStep_sCsLow h]
  | sSettle => rw [State.microStep_sSettle h]
  | sRise => rw [State.microStep_sRise h]
  | sSample => rw [State.microStep_sSample h]
  | sFall =>
    by_cases hb : s.bitIdx = 0#5
    · rw [State.microStep_sFall_last h hb]
    · rw [State.microStep_sFall_next h hb]
  | sCsHigh => rw [State.microStep_sCsHigh h]

/-- Within a CAPTURE each micro-step leaves one less to do: S_FALL pays for the next bit with the bit index. -/
theorem State.remaining_microStep {s : State} (hs : s.seq ≠ .idle) : s.microStep.remaining + 1 = s.remaining := by
  cases h : s.seq with
  | idle => exact absurd h hs
  | sPre => simp [State.microStep_sPre h, State.remaining, h]
  | sCsLow => simp [State.microStep_sCsLow h, State.remaining, h]
  | sSettle => simp [State.microStep_sSettle h, State.remaining, h]
  | sRise => simp [State.microStep_sRise h, State.remaining, h]
  | sSample => simp [State.microStep_sSample h, State.remaining, h]
  | sFall =>
    by_cases hb : s.bitIdx = 0#5
    · simp [State.microStep_sFall_last h hb, State.remaining, h, hb]
    · have hdec : (s.bitIdx - 1#5).toNat + 1 = s.bitIdx.toNat := by bv_omega
      simp only [State.microStep_sFall_next h hb, State.remaining, h]
      omega
  | sCsHigh => simp [State.microStep_sCsHigh h, State.remaining, h]

/-! ### Runs in the lines' view -/

theorem lineRun_succ {s t : State} (h : lineStep s = .next t) (n : Nat) : lineRun (n + 1) s = lineRun n t := by
  rw [lineRun, h]

/-- Until a CAPTURE is done, `n` steps in the lines' view are `n` micro-steps, and `n` fewer are left. -/
theorem lineRun_micro : ∀ (n : Nat) (s : State), s.rst = none → n ≤ s.remaining →
    lineRun n s = .next (State.microSteps n s) ∧ (State.microSteps n s).remaining + n = s.remaining
  | 0, _, _, _ => ⟨rfl, rfl⟩
  | n + 1, s, h, hn => by
    have hs : s.seq ≠ .idle := fun hi => by have := State.remaining_eq_zero.2 hi; omega
    have hrem := State.remaining_microStep hs
    obtain ⟨hrun, hleft⟩ := lineRun_micro n s.microStep (by simp [h]) (by omega)
    exact ⟨(lineRun_succ (stepWith_busy h hs) n).trans hrun, by rw [State.microSteps]; omega⟩

/-- Row IDLE: the word of CAPTURE is taken and the sequencer starts. -/
theorem lineStep_capture {s : State} {rest : List Byte} (h : s.rst = none) (hi : s.seq = .idle)
    (hc : s.cmds = 0x04#8 :: rest) : lineStep s = .next { s with cmds := rest, seq := .sPre } :=
  stepWith_accept h hi hc

/-- An accepted CAPTURE runs for 101 steps in the lines' view: IDLE is reached at the 101st and not before. -/
theorem lineRun_capture {s : State} {rest : List Byte} (h : s.rst = none) (hi : s.seq = .idle)
    (hc : s.cmds = 0x04#8 :: rest) {n : Nat} (hn : n ≤ 100) :
    ∃ t, lineRun (n + 1) s = .next t ∧ (t.seq = .idle ↔ n = 100) := by
  obtain ⟨hrun, hleft⟩ := lineRun_micro n { s with cmds := rest, seq := .sPre } h hn
  refine ⟨_, (lineRun_succ (lineStep_capture h hi hc) n).trans hrun, ?_⟩
  rw [← State.remaining_eq_zero]
  simp only [State.remaining] at hleft ⊢
  omega

/-- Within a CAPTURE a step in the lines' view is the micro-step of its row. -/
theorem lineStep_busy {s t : State} {q : Seq} (h : s.rst = none) (hq : s.seq = q) (hb : q ≠ .idle)
    (ht : s.microStep = t) : lineStep s = .next t :=
  ht ▸ stepWith_busy h (hq ▸ hb)

/-- Settles O18: each row by its equation, the 101 steps by counting down `State.remaining`. -/
theorem sequencerFollowsItsTable : Obligations.SequencerFollowsItsTable := by
  refine ⟨fun _ _ => lineStep_capture, ?_, ?_, ?_, ?_, ?_, ?_, ?_, ?_, ?_⟩
  · exact fun s h hq => lineStep_busy h hq (by decide) (State.microStep_sPre hq)
  · exact fun s h hq => lineStep_busy h hq (by decide) (State.microStep_sCsLow hq)
  · exact fun s h hq => lineStep_busy h hq (by decide) (State.microStep_sSettle hq)
  · exact fun s h hq => lineStep_busy h hq (by decide) (State.microStep_sRise hq)
  · exact fun s h hq => lineStep_busy h hq (by decide) (State.microStep_sSample hq)
  · exact fun s h hq hb => lineStep_busy h hq (by decide) (State.microStep_sFall_next hq hb)
  · exact fun s h hq hb => lineStep_busy h hq (by decide) (State.microStep_sFall_last hq hb)
  · exact fun s h hq => lineStep_busy h hq (by decide) (State.microStep_sCsHigh hq)
  · intro s rest h hi hc
    refine ⟨?_, fun n h1 hn => ?_⟩
    · obtain ⟨t, hrun, hidle⟩ := lineRun_capture h hi hc (n := 100) le_rfl
      exact ⟨t, hrun, hidle.2 rfl⟩
    · obtain ⟨m, rfl⟩ := Nat.exists_eq_succ_of_ne_zero (by omega : n ≠ 0)
      obtain ⟨t, hrun, hidle⟩ := lineRun_capture h hi hc (n := m) (by omega)
      exact ⟨t, hrun, fun ht => by have := hidle.1 ht; omega⟩

end Sys2Proof.Machine
end

section
/-! PROOFS. The fields of the frame: the codes (41_field_extract R101 to R103), and the answers of RAWFRAME and FAULTDESC (R100,
R106 to R108). -/

namespace Sys2Proof.Machine

/-! ### Fields of a word -/

/-- A field is determined by its own bits. -/
theorem extractLsb'_congr {w : Nat} {x y : BitVec w} {lo len : Nat}
    (h : ∀ i, lo ≤ i → i < lo + len → x.getLsbD i = y.getLsbD i) : x.extractLsb' lo len = y.extractLsb' lo len := by
  apply BitVec.eq_of_getLsbD_eq
  intro i hi
  simp [BitVec.getLsbD_extractLsb', h (lo + i) (by omega) (by omega)]

/-- A field read as signed: its value below half its range, less the whole range from there. -/
theorem toInt_extractLsb'_eq_ite {w : Nat} (x : BitVec w) (lo k : Nat) :
    (x.extractLsb' lo (k + 1)).toInt =
      if (x.toNat >>> lo) % 2 ^ (k + 1) < 2 ^ k then (((x.toNat >>> lo) % 2 ^ (k + 1) : Nat) : Int)
      else (((x.toNat >>> lo) % 2 ^ (k + 1) : Nat) : Int) - (2 ^ (k + 1) : Nat) := by
  have hhalf (u : Nat) : 2 * u < 2 ^ (k + 1) ↔ u < 2 ^ k := by omega
  simp only [BitVec.toInt_eq_toNat_cond, BitVec.extractLsb'_toNat, hhalf]

/-- A shift with sign fill leaves the remaining top field, sign-extended: the sign bit of the field is that of the word. -/
theorem asr32_eq_toInt_topField (x : BitVec 32) {n : Nat} (hn : n < 32) :
    asr32 x n = (x.extractLsb' n (32 - n)).toInt := by
  have hmsb : (x.extractLsb' n (32 - n)).msb = x.msb := by
    rw [BitVec.msb_eq_getLsbD_last, BitVec.msb_eq_getLsbD_last, BitVec.getLsbD_extractLsb',
      show n + (32 - n - 1) = 32 - 1 by omega]
    simp [hn]
  have hbits : x.sshiftRight n = (x.extractLsb' n (32 - n)).signExtend 32 := by
    apply BitVec.eq_of_getLsbD_eq
    intro i hi
    have hin : n + i < 32 ↔ i < 32 - n := by omega
    rw [BitVec.getLsbD_sshiftRight, BitVec.getLsbD_signExtend, BitVec.getLsbD_extractLsb', hmsb]
    by_cases hfield : i < 32 - n
    · simp [hi, hin, hfield]
    · simp [hi, hin, hfield]
  rw [asr32, hbits, BitVec.toInt_signExtend_of_le (by omega)]

/-! ### The codes -/

/-- R101 as arithmetic on the frame. -/
theorem hotCode_eq_ite (f : Frame) :
    hotCode f = if f.toNat >>> 18 < 8192 then ((f.toNat >>> 18 : Nat) : Int) else ((f.toNat >>> 18 : Nat) : Int) - 16384 := by
  have hu : (f.toNat >>> 18) % 2 ^ 14 = f.toNat >>> 18 := Nat.mod_eq_of_lt (by omega)
  rw [hotCode, toInt_extractLsb'_eq_ite, hu]
  rfl

/-- R102 as arithmetic on the frame. -/
theorem coldCode_eq_ite (f : Frame) :
    coldCode f = if (f.toNat >>> 4) % 4096 < 2048 then (((f.toNat >>> 4) % 4096 : Nat) : Int)
      else (((f.toNat >>> 4) % 4096 : Nat) : Int) - 4096 :=
  toInt_extractLsb'_eq_ite f 4 11

theorem hotCode_range (f : Frame) : -8192 ≤ hotCode f ∧ hotCode f ≤ 8191 :=
  ⟨BitVec.le_toInt (f.extractLsb' 18 14), Int.le_of_lt_add_one (BitVec.toInt_lt (x := f.extractLsb' 18 14))⟩

theorem coldCode_range (f : Frame) : -2048 ≤ coldCode f ∧ coldCode f ≤ 2047 :=
  ⟨BitVec.le_toInt (f.extractLsb' 4 12), Int.le_of_lt_add_one (BitVec.toInt_lt (x := f.extractLsb' 4 12))⟩

/-- R103: the hot code is the arithmetic right shift by 18. -/
theorem hotCode_eq_asr32 (f : Frame) : hotCode f = asr32 f 18 :=
  (asr32_eq_toInt_topField f (by decide)).symm

/-- The hot code reads bits 31 to 18 alone. -/
theorem hotCode_congr {f g : Frame} (h : ∀ i, 18 ≤ i → i < 32 → g.getLsbD i = f.getLsbD i) : hotCode g = hotCode f :=
  congrArg BitVec.toInt (extractLsb'_congr h)

/-- The cold code reads bits 15 to 4 alone. -/
theorem coldCode_congr {f g : Frame} (h : ∀ i, 4 ≤ i → i < 16 → g.getLsbD i = f.getLsbD i) : coldCode g = coldCode f :=
  congrArg BitVec.toInt (extractLsb'_congr h)

/-- Settles O33: the code is the 14-bit top field read as signed. -/
theorem hotCodeIsSignedTopField : Obligations.HotCodeIsSignedTopField := by
  intro f
  obtain ⟨hlo, hhi⟩ := hotCode_range f
  exact ⟨hotCode_eq_ite f, hlo, hhi, hotCode_eq_asr32 f, fun _ => hotCode_congr⟩

/-- Settles O34: the code is the 12-bit field from bit 4 read as signed; bit 16 alone tells it from the bare shift. -/
theorem coldCodeIsSignedMaskedField : Obligations.ColdCodeIsSignedMaskedField := by
  refine ⟨by decide, fun f => ?_⟩
  obtain ⟨hlo, hhi⟩ := coldCode_range f
  exact ⟨coldCode_eq_ite f, hlo, hhi, fun _ => coldCode_congr⟩

/-! ### RAWFRAME and FAULTDESC -/

/-- Settles O37: the answer is FRAME, zero-extended. -/
theorem rawFrameReturnsFrame : Obligations.RawFrameReturnsFrame := by
  refine ⟨by decide, fun s => ⟨s.frame.setWidth 64, exec_answers (by decide) s, ?_, ?_⟩, exec_answers (by decide) State.reset⟩
  · rw [BitVec.extractLsb'_setWidth_of_le (by omega), BitVec.extractLsb'_eq_self]
  · apply BitVec.eq_of_getLsbD_eq
    intro i hi
    simp [BitVec.getLsbD_extractLsb']

/-- SUBFAULT reads bits 2 to 0 alone. -/
theorem subFault_congr {f g : Frame} (h : ∀ i, i < 3 → f.getLsbD i = g.getLsbD i) : subFault f = subFault g :=
  extractLsb'_congr fun i _ hi => h i (by omega)

/-- FAULTDESC's answer is a function of SUBFAULT, whatever the type. -/
theorem answer_faultDesc_congr {f g : Frame} (h : subFault f = subFault g) (ty ty' : ThermocoupleType) :
    answer .faultDesc f ty = answer .faultDesc g ty' := by
  simp only [answer, h]

/-- Settles O38: FAULTDESC only answers, and its answer is a function of SUBFAULT. -/
theorem faultDescReadsThreeBits : Obligations.FaultDescReadsThreeBits := by
  refine ⟨exec_answers (by decide), fun s t u hbits hs ht hu => ?_, by decide, by decide, by decide⟩
  have hans := answer_faultDesc_congr (subFault_congr hbits) s.tctype t.tctype
  rw [exec_answers (by decide)] at hu
  cases hu
  exact ⟨_, exec_answers (by decide) t, by simp [hs, ht, hans]⟩

/-- Settles O39: the eight texts, their lengths and their last bytes by evaluation. -/
theorem faultTextTable : Obligations.FaultTextTable := by
  unfold Obligations.FaultTextTable
  decide

end Sys2Proof.Machine
end

section
/-! PROOFS. One rounding in terms of the binade of the exact result: the error is at most half a quantum, which is twice as sharp at
the foot of a binade as the relative bound of `mul_close` and `add_close`. R122 and R124 need it: at their highest codes the relative
bounds of product and sum and the error of the constant add up to more than 2^-44 and 2^-40. -/

namespace Sys2Proof.Machine.Binary64

/-- The pattern `p` is `q`, in sign and magnitude, rounded once. -/
def RoundsTo (p : Word64) (q : Rat) : Prop :=
  ∃ (neg : Bool) (num den : Nat), 0 < den ∧ p = pack neg (roundMag num den) ∧
    q * one = (if neg then -1 else 1) * (num / den)

/-- Below `2 ^ E` units the error of a rounding is at most half a quantum of the binade that ends there. -/
theorem roundMag_half_quantum (neg : Bool) {num den E : Nat} (hd : 0 < den) (hlo : 53 ≤ E) (hhi : E ≤ 2097)
    (hlt : num < den * 2 ^ E) :
    |(magUnits (pack neg (roundMag num den)) : Rat) - num / den| ≤ 2 ^ E / 2 ^ 54 := by
  obtain ⟨sh, k, hr, hfull, hle, hk, hsh, -⟩ := roundMag_shape num den hd
  have hbinade : sh ≤ E - 53 := by
    have hq : num / den < 2 ^ E := (Nat.div_lt_iff_lt_mul hd).2 (by rwa [Nat.mul_comm])
    rcases Nat.eq_zero_or_pos (num / den) with h0 | h0
    · rw [h0] at hsh; simp at hsh; omega
    · have := (Nat.log2_lt (by omega)).2 hq
      omega
  have hfin : sh * 2 ^ 52 + k < 2047 * 2 ^ 52 := by omega
  rw [hr, Nat.min_eq_left (by omega), (magUnits_pack neg sh k hfull hle hfin).2]
  obtain ⟨e1, e2⟩ := roundDiv_error num (den * 2 ^ sh) (Nat.mul_pos hd (Nat.two_pow_pos _))
  rw [← hk] at e1 e2
  have hdq : (0 : Rat) < den := by exact_mod_cast hd
  have hhalf : |((k * 2 ^ sh : Nat) : Rat) - num / den| ≤ 2 ^ sh / 2 := by
    have e1 : 2 * (num : Rat) ≤ 2 * (k * (den * 2 ^ sh)) + den * 2 ^ sh := by exact_mod_cast e1
    have e2 : 2 * (k * (den * 2 ^ sh) : Rat) ≤ 2 * num + den * 2 ^ sh := by exact_mod_cast e2
    have hdiff : ((k * 2 ^ sh : Nat) : Rat) - num / den = (k * 2 ^ sh * den - num) / den := by
      push_cast; field_simp
    rw [hdiff, abs_div, abs_of_pos hdq, div_le_iff₀ hdq, abs_le]
    constructor <;> linarith
  have hquantum : (2 : Rat) ^ sh / 2 ≤ 2 ^ E / 2 ^ 54 := by
    have hE : (2 : Rat) ^ E = 2 ^ (E - 53) * 2 ^ 53 := by rw [← pow_add, Nat.sub_add_cancel hlo]
    have hpow : (2 : Rat) ^ sh ≤ 2 ^ (E - 53) := pow_le_pow_right₀ (by norm_num) hbinade
    rw [hE]
    linarith
  exact hhalf.trans hquantum

/-- A rounding of a number below `2 ^ e` is finite and within half a quantum. -/
theorem RoundsTo.close {p : Word64} {q : Rat} {e : Nat} (h : RoundsTo p q) (he : e ≤ 1023) (hq : |q| < 2 ^ e) :
    isFinite p = true ∧ |value p - q| ≤ 2 ^ e / 2 ^ 54 := by
  obtain ⟨neg, num, den, hd, rfl, hn⟩ := h
  have hdq : (0 : Rat) < den := by exact_mod_cast hd
  have h1 := one_pos
  have habs : |q| * one = num / den := by
    rw [← abs_of_pos h1, ← abs_mul, hn, abs_mul, abs_of_nonneg (show (0 : Rat) ≤ num / den by positivity)]
    cases neg <;> simp
  have hlt : num < den * 2 ^ (e + 1074) := by
    have : (num : Rat) / den < 2 ^ (e + 1074) := by
      rw [← habs, pow_add, one_eq]
      exact mul_lt_mul_of_pos_right hq (by positivity)
    rw [div_lt_iff₀ hdq, mul_comm] at this
    exact_mod_cast this
  obtain ⟨hfin, hsign, -⟩ := roundMag_error neg num den (e + 1074) hd (by omega) hlt
  refine ⟨hfin, ?_⟩
  have hval : value (pack neg (roundMag num den)) - q =
      (if neg then -1 else 1) * ((magUnits (pack neg (roundMag num den)) : Rat) - num / den) / one := by
    rw [mul_sub, ← hn]
    unfold value units
    rw [hsign]
    cases neg <;> field_simp <;> simp
  have herr := roundMag_half_quantum neg hd (by omega) (by omega) hlt
  rw [pow_add, ← one_eq] at herr
  rw [hval, abs_div, abs_of_pos h1, div_le_iff₀ h1, abs_mul]
  have hunit : |(if neg then -1 else 1 : Rat)| = 1 := by cases neg <;> simp
  rw [hunit]
  linarith

/-- `a (*) b` is the exact product rounded once. -/
theorem mul_roundsTo {a b : Word64} (ha : isFinite a = true) (hb : isFinite b = true) :
    RoundsTo (mul a b) (value a * value b) := by
  refine ⟨sign a != sign b, magUnits a * magUnits b, one, by exact_mod_cast one_pos, ?_, ?_⟩
  · unfold mul
    simp [ha, hb]
  · have h1 := one_pos
    unfold value units
    push_cast
    field_simp
    cases sign a <;> cases sign b <;> simp

/-- `a (+) b` is the exact sum rounded once. -/
theorem add_roundsTo {a b : Word64} (ha : isFinite a = true) (hb : isFinite b = true) :
    RoundsTo (add a b) (value a + value b) := by
  have hs : (value a + value b) * one = ((units a + units b : Int) : Rat) := by
    have h1 := one_pos
    unfold value; push_cast; field_simp
  unfold add
  simp only [ha, hb, Bool.and_self, if_true]
  by_cases h0 : units a + units b = 0
  · exact ⟨sign a && sign b, 0, 1, by decide, by rw [if_pos h0]; rfl, by rw [hs, h0]; simp⟩
  · refine ⟨decide (units a + units b < 0), (units a + units b).natAbs, 1, by decide, by rw [if_neg h0], ?_⟩
    rw [hs, Nat.cast_natAbs]
    by_cases h : units a + units b < 0
    · simp [h, abs_of_neg h]
    · simp [h, abs_of_nonneg (not_lt.1 h)]

/-- An integer times a power of two is not rounded. -/
theorem mul_ofInt_twoPow {n : Int} {b : Word64} (hn : n.natAbs < 2 ^ 53) (hsig : significand b = 2 ^ 52)
    (hexp : expField b ≤ 1993) :
    isFinite (mul (ofInt n) b) = true ∧ value (mul (ofInt n) b) = n * value b := by
  obtain ⟨hfin, -, hmag⟩ := ofInt_exact hn
  have hb : isFinite b = true := by simp [isFinite]; omega
  have hprod : magUnits (ofInt n) * magUnits b = n.natAbs * 2 ^ (52 + (expField b - 1)) * one := by
    rw [hmag, magUnits, hsig, pow_add]
    ring
  rw [← ofInt_value hn]
  exact mul_exact hfin hb (by omega) hn hprod

end Sys2Proof.Machine.Binary64
end

section
/-! PROOFS. The linear scaler (42_linear_scale): the values of its constants, one lemma for the operations of one multiply, one for
those of a multiply and an add, and the five operations. -/

namespace Sys2Proof.Machine

open Binary64

/-! ### The constants -/

theorem value_kColdC : value kColdC.bits = 1 / 16 := by
  rw [value_of_fields (2 ^ 52) 56 (by decide) (by decide) (by decide)]
  norm_num

theorem value_kHotC : value kHotC.bits = 1 / 4 := by
  rw [value_of_fields (2 ^ 52) 54 (by decide) (by decide) (by decide)]
  norm_num

theorem value_kColdF : value kColdF.bits = 0x1CCCCCCCCCCCCD / 2 ^ 56 :=
  value_of_fields 0x1CCCCCCCCCCCCD 56 (by decide) (by decide) (by decide)

theorem value_kHotF : value kHotF.bits = 0x1CCCCCCCCCCCCD / 2 ^ 54 :=
  value_of_fields 0x1CCCCCCCCCCCCD 54 (by decide) (by decide) (by decide)

theorem value_kHotV : value kHotV.bits = 0x1220C49BA5E354 / 2 ^ 49 :=
  value_of_fields 0x1220C49BA5E354 49 (by decide) (by decide) (by decide)

theorem value_kFOff : value kFOff.bits = 32 := by
  rw [value_of_fields (2 ^ 52) 47 (by decide) (by decide) (by decide)]
  norm_num

/-! ### The two shapes of a scaling -/

/-- R121 and R123: one multiply by a constant whose value `κ` is a power of two is exact. -/
theorem scale_exact {n : Int} {k : Constant} {κ : Rat} (hn : n.natAbs < 2 ^ 53) (hsig : significand k.bits = 2 ^ 52)
    (hexp : expField k.bits ≤ 1993) (hκ : value k.bits = κ) :
    isFinite (scale n k) = true ∧ value (scale n k) = n * κ :=
  hκ ▸ mul_ofInt_twoPow hn hsig hexp

/-- One multiply by a constant of value `κ` is within half a quantum of the binade that bounds the product. -/
theorem scale_close {n : Int} {k : Constant} {κ : Rat} {e : Nat} (hn : n.natAbs < 2 ^ 53) (hk : isFinite k.bits = true)
    (hκ : value k.bits = κ) (he : e ≤ 1023) (hq : |n * κ| < 2 ^ e) :
    isFinite (scale n k) = true ∧ |value (scale n k) - n * κ| ≤ 2 ^ e / 2 ^ 54 := by
  rw [← hκ, ← ofInt_value hn] at hq ⊢
  exact (mul_roundsTo (ofInt_exact hn).1 hk).close he hq

/-- A multiply and an add are within half a quantum each: of the product's binade, and of the sum's. -/
theorem scaleF_close {n : Int} {k : Constant} {κ : Rat} {e e' : Nat} (hn : n.natAbs < 2 ^ 53)
    (hk : isFinite k.bits = true) (hκ : value k.bits = κ) (he : e ≤ 1023) (he' : e' ≤ 1023) (hq : |n * κ| < 2 ^ e)
    (hsum : |n * κ + 32| + 2 ^ e / 2 ^ 54 < 2 ^ e') :
    isFinite (scaleF n k) = true ∧ |value (scaleF n k) - (n * κ + 32)| ≤ 2 ^ e / 2 ^ 54 + 2 ^ e' / 2 ^ 54 := by
  obtain ⟨hfin, hmul⟩ := scale_close hn hk hκ he hq
  have hsplit : value (scale n k) + 32 = n * κ + 32 + (value (scale n k) - n * κ) := by ring
  have hlt : |value (scale n k) + value kFOff.bits| < 2 ^ e' := by
    rw [value_kFOff, hsplit]
    exact (abs_add_le _ _).trans_lt ((add_le_add_right hmul _).trans_lt hsum)
  obtain ⟨hfin', hadd⟩ := (add_roundsTo hfin (by decide : isFinite kFOff.bits = true)).close he' hlt
  rw [value_kFOff] at hadd
  have htotal : value (scaleF n k) - (n * κ + 32) =
      value (scale n k) - n * κ + (value (scaleF n k) - (value (scale n k) + 32)) := by ring
  refine ⟨hfin', ?_⟩
  rw [htotal]
  exact (abs_add_le _ _).trans (add_le_add hmul hadd)

/-! ### The codes as rationals -/

theorem coldCode_range_rat (f : Frame) : (-2048 : Rat) ≤ coldCode f ∧ (coldCode f : Rat) ≤ 2047 := by
  exact_mod_cast coldCode_range f

theorem hotCode_range_rat (f : Frame) : (-8192 : Rat) ≤ hotCode f ∧ (hotCode f : Rat) ≤ 8191 := by
  exact_mod_cast hotCode_range f

theorem coldCode_natAbs_lt (f : Frame) : (coldCode f).natAbs < 2 ^ 53 := by
  have := coldCode_range f
  omega

theorem hotCode_natAbs_lt (f : Frame) : (hotCode f).natAbs < 2 ^ 53 := by
  have := hotCode_range f
  omega

/-! ### The accuracy of the operations that round, over their range of codes -/

/-- R122: the product is below 2^8 and the sum below 2^9. -/
theorem scaleF_kColdF_close (f : Frame) :
    isFinite (scaleF (coldCode f) kColdF) = true ∧
      |value (scaleF (coldCode f) kColdF) - (coldCode f * (9 / 80) + 32)| < 1 / 2 ^ 44 := by
  obtain ⟨hlo, hhi⟩ := coldCode_range_rat f
  obtain ⟨hfin, herr⟩ := scaleF_close (e := 8) (e' := 9) (coldCode_natAbs_lt f) (by decide) value_kColdF (by decide) (by decide)
    (by rw [abs_lt]; constructor <;> linarith) (by rw [← lt_sub_iff_add_lt, abs_lt]; constructor <;> linarith)
  rw [abs_le] at herr
  exact ⟨hfin, by rw [abs_lt]; constructor <;> linarith⟩

/-- R124: product and sum are below 2^12. -/
theorem scaleF_kHotF_close (f : Frame) :
    isFinite (scaleF (hotCode f) kHotF) = true ∧
      |value (scaleF (hotCode f) kHotF) - (hotCode f * (9 / 20) + 32)| < 1 / 2 ^ 40 := by
  obtain ⟨hlo, hhi⟩ := hotCode_range_rat f
  obtain ⟨hfin, herr⟩ := scaleF_close (e := 12) (e' := 12) (hotCode_natAbs_lt f) (by decide) value_kHotF (by decide) (by decide)
    (by rw [abs_lt]; constructor <;> linarith) (by rw [← lt_sub_iff_add_lt, abs_lt]; constructor <;> linarith)
  rw [abs_le] at herr
  exact ⟨hfin, by rw [abs_lt]; constructor <;> linarith⟩

/-- R125: the product is below 2^17. -/
theorem scale_kHotV_close (f : Frame) :
    isFinite (scale (hotCode f) kHotV) = true ∧
      |value (scale (hotCode f) kHotV) - hotCode f * (1133 / 125)| < 1 / 2 ^ 36 := by
  obtain ⟨hlo, hhi⟩ := hotCode_range_rat f
  obtain ⟨hfin, herr⟩ := scale_close (e := 17) (hotCode_natAbs_lt f) (by decide) value_kHotV (by decide)
    (by rw [abs_lt]; constructor <;> linarith)
  rw [abs_le] at herr
  exact ⟨hfin, by rw [abs_lt]; constructor <;> linarith⟩

/-! ### The patterns the rules give -/

/-- The patterns of R121. -/
theorem scale_kColdC_patterns :
    scale 0 kColdC = 0x0000000000000000#64 ∧ scale (-2048) kColdC = 0xC060000000000000#64 ∧
      scale 2047 kColdC = 0x405FFC0000000000#64 ∧ scale (coldCode 0x00000100#32) kColdC = 0x3FF0000000000000#64 := by
  decide +kernel

/-- The patterns of R122. -/
theorem scaleF_kColdF_patterns :
    scaleF 0 kColdF = 0x4040000000000000#64 ∧ scaleF (-2048) kColdF = 0xC068CCCCCCCCCCCD#64 ∧
      scaleF 2047 kColdF = 0x407064999999999A#64 ∧ scaleF (coldCode 0x00001900#32) kColdF = 0x4053400000000000#64 := by
  decide +kernel

/-- The patterns of R123. -/
theorem scale_kHotC_patterns :
    scale 0 kHotC = 0x0000000000000000#64 ∧ scale (-8192) kHotC = 0xC0A0000000000000#64 ∧
      scale 8191 kHotC = 0x409FFF0000000000#64 ∧ scale (hotCode 0x00100000#32) kHotC = 0x3FF0000000000000#64 ∧
      scale (hotCode 0xFFF00000#32) kHotC = 0xBFF0000000000000#64 := by
  decide +kernel

/-- The patterns of R124. -/
theorem scaleF_kHotF_patterns :
    scaleF 0 kHotF = 0x4040000000000000#64 ∧ scaleF (-8192) kHotF = 0xC0AC8CCCCCCCCCCD#64 ∧
      scaleF 8191 kHotF = 0x40AD0BE666666667#64 ∧ scaleF 400 kHotF = 0x406A800000000000#64 ∧
      scaleF 4 kHotF = 0x4040E66666666666#64 := by
  decide +kernel

/-- The patterns of R125. -/
theorem scale_kHotV_patterns :
    scale 0 kHotV = 0x0000000000000000#64 ∧ scale (-8192) kHotV = 0xC0F220C49BA5E354#64 ∧
      scale 8191 kHotV = 0x40F2203395810625#64 ∧ scale 400 kHotV = 0x40AC533333333333#64 ∧
      scale 4 kHotV = 0x404220C49BA5E354#64 := by
  decide +kernel

/-! ### The five operations -/

/-- Settles O42: a product with 2^-4 is exact, and so is its range. -/
theorem coldCelsiusIsExact : Obligations.ColdCelsiusIsExact := by
  refine ⟨by decide, fun s => ⟨scale (coldCode s.frame) kColdC, exec_answers (by decide) s, rfl, ?_⟩⟩
  obtain ⟨hlo, hhi⟩ := coldCode_range_rat s.frame
  obtain ⟨hfin, hval⟩ := scale_exact (coldCode_natAbs_lt s.frame) (by decide) (by decide) value_kColdC
  obtain ⟨hzero, hmin, hmax, hone⟩ := scale_kColdC_patterns
  rw [mul_one_div] at hval
  exact ⟨hfin, hval, by rw [hval]; linarith, by rw [hval]; linarith,
    fun h => by rw [h, hzero], fun h => by rw [h, hmin], fun h => by rw [h, hmax], fun h => by rw [h, hone]⟩

/-- Settles O43: half a quantum of the product, half a quantum of the sum and the error of the constant are below 2^-44. -/
theorem coldFahrenheitIsClose : Obligations.ColdFahrenheitIsClose := by
  refine ⟨by decide, fun s => ⟨scaleF (coldCode s.frame) kColdF, exec_answers (by decide) s, rfl, ?_⟩⟩
  obtain ⟨hlo, hhi⟩ := coldCode_range_rat s.frame
  obtain ⟨hfin, hclose⟩ := scaleF_kColdF_close s.frame
  obtain ⟨hzero, hmin, hmax, hone⟩ := scaleF_kColdF_patterns
  exact ⟨hfin, hclose, by linarith, by linarith,
    fun h => by rw [h, hzero], fun h => by rw [h, hmin], fun h => by rw [h, hmax], fun h => by rw [h, hone]⟩

/-- Settles O44: a product with 2^-2 is exact, and so is its range. -/
theorem hotCelsiusIsExact : Obligations.HotCelsiusIsExact := by
  refine ⟨by decide, fun s => ⟨scale (hotCode s.frame) kHotC, exec_answers (by decide) s, rfl, ?_⟩⟩
  obtain ⟨hlo, hhi⟩ := hotCode_range_rat s.frame
  obtain ⟨hfin, hval⟩ := scale_exact (hotCode_natAbs_lt s.frame) (by decide) (by decide) value_kHotC
  obtain ⟨hzero, hmin, hmax, hone, hminusOne⟩ := scale_kHotC_patterns
  rw [mul_one_div] at hval
  exact ⟨hfin, hval, by rw [hval]; linarith, by rw [hval]; linarith,
    fun h => by rw [h, hzero], fun h => by rw [h, hmin], fun h => by rw [h, hmax], fun h => by rw [h, hone],
    fun h => by rw [h, hminusOne]⟩

/-- Settles O45: half a quantum of the product, half a quantum of the sum and the error of the constant are below 2^-40. -/
theorem hotFahrenheitIsClose : Obligations.HotFahrenheitIsClose := by
  refine ⟨by decide, fun s => ⟨scaleF (hotCode s.frame) kHotF, exec_answers (by decide) s, rfl, ?_⟩⟩
  obtain ⟨hlo, hhi⟩ := hotCode_range_rat s.frame
  obtain ⟨hfin, hclose⟩ := scaleF_kHotF_close s.frame
  obtain ⟨hzero, hmin, hmax, h400, h4⟩ := scaleF_kHotF_patterns
  exact ⟨hfin, hclose, by linarith, by linarith,
    fun h => by rw [h, hzero], fun h => by rw [h, hmin], fun h => by rw [h, hmax], fun h => by rw [h, h400],
    fun h => by rw [h, h4]⟩

/-- Settles O46: half a quantum of the product and the error of the constant are below 2^-36; TCTYPE is not read. -/
theorem hotVoltageIsClose : Obligations.HotVoltageIsClose := by
  refine ⟨by decide, fun s => ⟨scale (hotCode s.frame) kHotV, exec_answers (by decide) s, rfl, ?_⟩⟩
  obtain ⟨hlo, hhi⟩ := hotCode_range_rat s.frame
  obtain ⟨hfin, hclose⟩ := scale_kHotV_close s.frame
  obtain ⟨hzero, hmin, hmax, h400, h4⟩ := scale_kHotV_patterns
  exact ⟨hfin, hclose, by linarith, by linarith,
    fun h => by rw [h, hzero], fun h => by rw [h, hmin], fun h => by rw [h, hmax], fun h => by rw [h, h400],
    fun h => by rw [h, h4]⟩

end Sys2Proof.Machine
end

section
/-! PROOFS. The decoder (30_encoding R61, R64 to R68): a word decodes to an operation exactly when it is its encoding, and so does a
program. -/

namespace Sys2Proof

/-- The laws of Laws/PerInstr.lean, for every instruction. -/
theorem roundTrip (i : Instr) : Laws.RoundTrip.Statement i := by
  cases i with
  | capture => exact Laws.RoundTrip.capture
  | rawFrame => exact Laws.RoundTrip.rawFrame
  | faultDesc => exact Laws.RoundTrip.faultDesc
  | coldjC => exact Laws.RoundTrip.coldjC
  | coldjF => exact Laws.RoundTrip.coldjF
  | hotjC => exact Laws.RoundTrip.hotjC
  | hotjF => exact Laws.RoundTrip.hotjF
  | hotjV => exact Laws.RoundTrip.hotjV
  | hotjAdj => exact Laws.RoundTrip.hotjAdj

@[simp] theorem decode_encode (i : Instr) : decode (encode i) = .ok i := (roundTrip i).2.1

/-- R61, R67: a word decodes to an operation exactly when it is the operation's encoding. -/
theorem decode_eq_ok_iff {w : Byte} {i : Instr} : decode w = .ok i ↔ w = encode i :=
  ⟨(roundTrip i).2.2 w, fun h => h ▸ decode_encode i⟩

/-- R68: a non-empty byte sequence decodes to its first operation followed by what the rest decodes to. -/
theorem decodeProgram_cons_eq_ok_iff {w : Byte} {ws : List Byte} {program : List Instr} :
    decodeProgram (w :: ws) = .ok program ↔
      ∃ i is, decode w = .ok i ∧ decodeProgram ws = .ok is ∧ program = i :: is := by
  rw [decodeProgram]
  cases decode w with
  | error e => simp
  | ok i =>
    cases decodeProgram ws with
    | error e => simp
    | ok is => simp [eq_comm]

/-- The nine words of R61 are the encodings. -/
theorem encode_mem (i : Instr) :
    encode i ∈ [0x04#8, 0x08#8, 0x0C#8, 0x10#8, 0x11#8, 0x14#8, 0x15#8, 0x16#8, 0x17#8] := by
  cases i <;> decide

/-- Settles O1: each of the nine words by evaluation of the decoder. -/
theorem commandWordsDecode : Obligations.CommandWordsDecode := by
  unfold Obligations.CommandWordsDecode
  decide

/-- Settles O2, by induction on the bytes: `decode_eq_ok_iff` for the first, the hypothesis for the rest. -/
theorem programsDecodeExactlyFromTheirEncoding : Obligations.ProgramsDecodeExactlyFromTheirEncoding := by
  intro bytes
  induction bytes with
  | nil =>
    intro program
    cases program with
    | nil => simp [decodeProgram]
    | cons i is => simp [decodeProgram]
  | cons w ws ih =>
    intro program
    simp only [decodeProgram_cons_eq_ok_iff, decode_eq_ok_iff, ih]
    cases program with
    | nil => simp
    | cons i is => simp

end Sys2Proof
end

section
/-! PROOFS. What a step does with the word presented, what each operation leaves, and when construct is refused. -/

namespace Sys2Proof.Machine

variable {run : Instr → State → Host.Outcome State Fault Refusal}

/-! ### The word presented -/

@[simp] theorem acceptWord_encode (i : Instr) (s : State) : acceptWord run (encode i) s = run i s := by
  simp [acceptWord]

/-- 60_exceptions R166: a word that is no operation's encoding gets the error response and nothing else. -/
theorem acceptWord_reserved {w : Byte} (hw : ∀ i, w ≠ encode i) (s : State) :
    acceptWord run w s = .next (s.respond (.error (.illegalCommand w))) := by
  have hdec : ∀ i, decode w ≠ .ok i := fun i hi => hw i (decode_eq_ok_iff.1 hi)
  cases h : decode w with
  | ok i => exact absurd h (hdec i)
  | error e => rw [acceptWord, h]; rfl

/-- The inversion of a step without a reset event that answers a next state. -/
theorem stepWith_next_cases {s t : State} (h : s.rst = none) (ht : stepWith run s = .next t) :
    (s.seq ≠ .idle ∧ t = s.microStep) ∨
    (s.seq = .idle ∧ s.cmds = [] ∧ t = s) ∨
    (∃ i rest, s.seq = .idle ∧ s.cmds = encode i :: rest ∧ run i { s with cmds := rest } = .next t) ∨
    (∃ w rest, s.seq = .idle ∧ s.cmds = w :: rest ∧ (∀ i, w ≠ encode i) ∧
      t = { s with cmds := rest }.respond (.error (.illegalCommand w))) := by
  obtain ⟨a, ha, -⟩ | ⟨-, hb, hs⟩ | ⟨-, hi, hc, hs⟩ | ⟨w, rest, -, hi, hc, hs⟩ := stepWith_cases (run := run) s
  · rw [h] at ha; cases ha
  · rw [hs] at ht; cases ht
    exact .inl ⟨hb, rfl⟩
  · rw [hs] at ht; cases ht
    exact .inr (.inl ⟨hi, hc, rfl⟩)
  · rw [hs] at ht
    by_cases hw : ∃ i, w = encode i
    · obtain ⟨i, rfl⟩ := hw
      rw [acceptWord_encode] at ht
      exact .inr (.inr (.inl ⟨i, rest, hi, hc, ht⟩))
    · have hw : ∀ i, w ≠ encode i := fun i hi => hw ⟨i, hi⟩
      rw [acceptWord_reserved hw] at ht; cases ht
      exact .inr (.inr (.inr ⟨w, rest, hi, hc, hw, rfl⟩))

/-! ### The operations -/

/-- No operation reports ERR = 3, the code that 30_encoding R62 leaves unassigned. -/
theorem Response.err_ne_three (r : Response) : r.err ≠ 3#2 := by
  cases r with
  | ok valid res text => simp [Response.err]
  | error why => cases why <;> simp [Response.err]

/-- 60_exceptions R170: every operation answers a next state with one response more, and takes no further word. An idle block stays
idle. -/
theorem exec_next (i : Instr) (s : State) :
    ∃ (t : State) (r : Response), exec i s = .next t ∧ t.responses = s.responses ++ [r] ∧ t.cmds = s.cmds ∧ t.rst = s.rst ∧
      (s.seq = .idle → t.seq = .idle) := by
  by_cases hi : i = .capture
  · subst hi
    exact ⟨_, _, exec_capture_eq s, rfl, rfl, rfl, fun _ => rfl⟩
  · exact ⟨_, _, exec_answers hi s, rfl, rfl, rfl, id⟩

/-- Settles O3: the word is no encoding, so the decoder refuses it. -/
theorem reservedWordIsIllegalCommand : Obligations.ReservedWordIsIllegalCommand := by
  intro s w rest h hi hc hw
  have hres : ∀ i, w ≠ encode i := fun i hwi => hw (hwi ▸ encode_mem i)
  exact ⟨_, (stepWith_accept h hi hc).trans (acceptWord_reserved hres _), rfl, rfl, rfl, rfl⟩

/-- Settles O4: the word is the operation's encoding. -/
theorem stepRunsTheDecodedOperation : Obligations.StepRunsTheDecodedOperation := by
  intro s w rest i h hi hc hdec _
  obtain rfl := decode_eq_ok_iff.1 hdec
  exact (stepWith_accept h hi hc).trans (acceptWord_encode i _)

/-- Settles O5: the placed word is the encoding, and the step takes it from the list again. -/
theorem placedWordRunsNext : Obligations.PlacedWordRunsNext := by
  intro s i
  have hword : BitVec.ofNat 8 ((encode i).toNat % 2 ^ 8) = encode i := by
    rw [Nat.mod_eq_of_lt (encode i).isLt, BitVec.ofNat_toNat, BitVec.setWidth_eq]
  have hcmds : (s.withFetchWord 8 (encode i).toNat).cmds = encode i :: s.cmds := congrArg (· :: s.cmds) hword
  exact (stepWith_accept rfl rfl hcmds).trans (acceptWord_encode i _)

/-- Settles O6. -/
theorem quietBlockStays : Obligations.QuietBlockStays :=
  fun _ h hi hc => ⟨stepWith_quiet h hi hc, stepWith_quiet h hi hc⟩

/-- Settles O7: a legal word by `exec_next`, a reserved one by `acceptWord_reserved`. -/
theorem everyCommandGetsOneResponse : Obligations.EveryCommandGetsOneResponse := by
  intro s w rest h hi hc
  have hstep : step s = acceptWord exec w { s with cmds := rest } := stepWith_accept h hi hc
  by_cases hw : ∃ i, w = encode i
  · obtain ⟨i, rfl⟩ := hw
    obtain ⟨t, r, ht, hr, hcmds, hrst, hidle⟩ := exec_next i { s with cmds := rest }
    rw [acceptWord_encode, ht] at hstep
    exact ⟨t, r, hstep, hr, r.err_ne_three, hidle hi, hcmds, hrst.trans h⟩
  · rw [acceptWord_reserved fun i hi => hw ⟨i, hi⟩] at hstep
    exact ⟨_, _, hstep, rfl, Response.err_ne_three _, hi, rfl, h⟩

/-- Settles O8. -/
theorem everyOperationCompletes : Obligations.EveryOperationCompletes := by
  intro i s
  obtain ⟨t, r, ht, hr, -⟩ := exec_next i s
  exact ⟨t, ht, by simp [hr]⟩

/-! ### Construct -/

/-- 30_encoding R59: a type code stands for a type exactly when it is the type's code. -/
theorem ofCode_eq_some_iff {c : BitVec 3} {ty : ThermocoupleType} : ThermocoupleType.ofCode c = some ty ↔ c = ty.code := by
  revert c
  cases ty <;> decide

/-- 30_encoding R59: code 7 alone stands for no type. -/
theorem ofCode_eq_none_iff {c : BitVec 3} : ThermocoupleType.ofCode c = none ↔ c = 7#3 := by
  revert c
  decide

theorem construct_seven {a : ConstructArgs} (h : a.typeCode = 7#3) (s : State) :
    construct a s = .refused .reservedThermocoupleType := by
  rw [construct, ofCode_eq_none_iff.2 h]

/-- With a type code that is not reserved, the pins alone decide. -/
theorem construct_ne_seven {a : ConstructArgs} (h : a.typeCode ≠ 7#3) (s : State) :
    ∃ ty : ThermocoupleType, ty.code = a.typeCode ∧ construct a s =
      if a.pins.distinct then .next (s.constructed a.pins ty) else .refused .coincidentPins := by
  cases hty : ThermocoupleType.ofCode a.typeCode with
  | none => exact absurd (ofCode_eq_none_iff.1 hty) h
  | some ty => exact ⟨ty, (ofCode_eq_some_iff.1 hty).symm, by rw [construct, hty]⟩

/-- 92_eei_decisions D21: a binding is refused exactly when two of its pins coincide. -/
theorem distinct_eq_false_iff {p : PinBinding} : p.distinct = false ↔ p.so = p.sck ∨ p.so = p.cs ∨ p.sck = p.cs := by
  simp only [PinBinding.distinct, Bool.and_eq_false_iff, bne_eq_false_iff_eq, or_assoc]

/-- Construct with the arguments it admits. -/
theorem construct_of_admitted {a : ConstructArgs} (h : a.typeCode ≠ 7#3) (hd : a.pins.distinct = true) (s : State) :
    ∃ ty : ThermocoupleType, ty.code = a.typeCode ∧ construct a s = .next (s.constructed a.pins ty) := by
  obtain ⟨ty, hcode, hs⟩ := construct_ne_seven h s
  exact ⟨ty, hcode, by rw [hs, if_pos hd]⟩

/-- The five pin calls of 70_reset R180. -/
@[simp] theorem State.constructed_trace (s : State) (p : PinBinding) (ty : ThermocoupleType) :
    (s.constructed p ty).trace = s.trace ++
      [.mode .cs p.cs .output, .write .cs p.cs .high, .mode .sck p.sck .output, .write .sck p.sck .low,
       .mode .so p.so .input] := by
  simp [State.constructed]

/-- The events a step appends are its new events. -/
theorem newEvents_of_append {s t : State} {es : List PinEvent} (h : t.trace = s.trace ++ es) : newEvents s t = es := by
  simp [newEvents, h]

/-- Settles O9: without a reset event every case of `stepWith` answers a next state; construct refuses ill-formed arguments alone. -/
theorem onlyARefusedConstructStops : Obligations.OnlyARefusedConstructStops := by
  intro s
  obtain ⟨a, ha, hs⟩ | ⟨-, -, hs⟩ | ⟨-, -, -, hs⟩ | ⟨w, rest, h, hi, hc, -⟩ := stepWith_cases (run := exec) s
  · by_cases hcode : a.typeCode = 7#3
    · exact .inr ⟨a, _, ha, by simp [ConstructArgs.wf, hcode], hs.trans (construct_seven hcode _)⟩
    · obtain ⟨ty, -, hcon⟩ := construct_ne_seven hcode { s with rst := none }
      cases hd : a.pins.distinct with
      | true => exact .inl ⟨_, hs.trans (hcon.trans (if_pos hd))⟩
      | false => exact .inr ⟨a, _, ha, by simp [ConstructArgs.wf, hd], hs.trans (hcon.trans (by rw [hd]; rfl))⟩
  · exact .inl ⟨_, hs⟩
  · exact .inl ⟨_, hs⟩
  · obtain ⟨t, -, ht, -⟩ := everyCommandGetsOneResponse s w rest h hi hc
    exact .inl ⟨t, ht⟩

/-- Settles O25. -/
theorem constructLeavesTheResetState : Obligations.ConstructLeavesTheResetState := by
  intro s a ha hcode hd
  obtain ⟨ty, hty, hcon⟩ := construct_of_admitted hcode hd { s with rst := none }
  exact ⟨_, (stepWith_reset ha).trans hcon, (stepWith_reset ha).trans hcon, rfl, rfl, rfl, hty, rfl, rfl, rfl, rfl, rfl, rfl,
    rfl, rfl⟩

/-- Settles O26. -/
theorem constructMakesFivePinCalls : Obligations.ConstructMakesFivePinCalls := by
  intro s a ha hcode hd
  obtain ⟨ty, -, hcon⟩ := construct_of_admitted hcode hd { s with rst := none }
  exact ⟨_, (stepWith_reset ha).trans hcon, newEvents_of_append (State.constructed_trace _ _ _)⟩

/-- Settles O27. -/
theorem constructRefusesReservedArguments : Obligations.ConstructRefusesReservedArguments := by
  refine fun s a ha => ⟨fun hcode => (stepWith_reset ha).trans (construct_seven hcode _), fun hcode hpins => ?_⟩
  obtain ⟨ty, -, hcon⟩ := construct_ne_seven hcode { s with rst := none }
  exact (stepWith_reset ha).trans (hcon.trans (by rw [distinct_eq_false_iff.2 hpins]; rfl))

end Sys2Proof.Machine
end

section
/-! PROOFS. What a step cannot change: the frame of a micro-step and of an operation, the configuration, FRAME and the responses within
a CAPTURE, and the end of a running CAPTURE (40_capture R87 to R90). -/

namespace Sys2Proof.Machine

variable {run : Instr → State → Host.Outcome State Fault Refusal}

/-! ### The frame of a micro-step -/

theorem State.microStep_idle {s : State} (h : s.seq = .idle) : s.microStep = s := by
  simp only [State.microStep, h]

/-- A micro-step leaves the configuration, the pending commands and the counter of constructs as they are. -/
theorem State.microStep_frame (s : State) :
    s.microStep = { s.microStep with
      tctype := s.tctype, pins := s.pins, soDir := s.soDir, sckDir := s.sckDir, csDir := s.csDir
      rst := s.rst, cmds := s.cmds, constructs := s.constructs } := by
  cases h : s.seq with
  | idle => rw [State.microStep_idle h]
  | sPre => rw [State.microStep_sPre h]
  | sCsLow => rw [State.microStep_sCsLow h]
  | sSettle => rw [State.microStep_sSettle h]
  | sRise => rw [State.microStep_sRise h]
  | sSample => rw [State.microStep_sSample h]
  | sFall =>
    by_cases hb : s.bitIdx = 0#5
    · rw [State.microStep_sFall_last h hb]
    · rw [State.microStep_sFall_next h hb]
  | sCsHigh => rw [State.microStep_sCsHigh h]

@[simp] theorem State.microStep_cmds (s : State) : s.microStep.cmds = s.cmds := by
  rw [State.microStep_frame]

/-- R87: until the last micro-step FRAME keeps its value and no response is given. -/
theorem State.microStep_keeps_frame {s : State} (hs : s.seq ≠ .sCsHigh) :
    s.microStep.frame = s.frame ∧ s.microStep.responses = s.responses := by
  cases h : s.seq with
  | idle => rw [State.microStep_idle h]; exact ⟨rfl, rfl⟩
  | sPre => rw [State.microStep_sPre h]; exact ⟨rfl, rfl⟩
  | sCsLow => rw [State.microStep_sCsLow h]; exact ⟨rfl, rfl⟩
  | sSettle => rw [State.microStep_sSettle h]; exact ⟨rfl, rfl⟩
  | sRise => rw [State.microStep_sRise h]; exact ⟨rfl, rfl⟩
  | sSample => rw [State.microStep_sSample h]; exact ⟨rfl, rfl⟩
  | sFall =>
    by_cases hb : s.bitIdx = 0#5
    · rw [State.microStep_sFall_last h hb]; exact ⟨rfl, rfl⟩
    · rw [State.microStep_sFall_next h hb]; exact ⟨rfl, rfl⟩
  | sCsHigh => exact absurd h hs

/-- The last micro-step goes to IDLE. -/
theorem State.microStep_sCsHigh_seq {s : State} (h : s.seq = .sCsHigh) : s.microStep.seq = .idle := by
  rw [State.microStep_sCsHigh h]

/-- One micro-step is left at S_CSHIGH alone. -/
theorem State.remaining_eq_one {s : State} : s.remaining = 1 ↔ s.seq = .sCsHigh := by
  cases h : s.seq <;> simp [State.remaining, h]

/-! ### A running CAPTURE -/

/-- As long as more micro-steps are left, `n` of them keep the pending commands, FRAME and the responses. -/
theorem State.microSteps_keeps : ∀ (n : Nat) (s : State), n < s.remaining →
    (State.microSteps n s).cmds = s.cmds ∧ (State.microSteps n s).frame = s.frame ∧
      (State.microSteps n s).responses = s.responses
  | 0, _, _ => ⟨rfl, rfl, rfl⟩
  | n + 1, s, hn => by
    have hidle : s.seq ≠ .idle := fun h => by have := State.remaining_eq_zero.2 h; omega
    have hlast : s.seq ≠ .sCsHigh := fun h => by have := State.remaining_eq_one.2 h; omega
    have hrem := State.remaining_microStep hidle
    obtain ⟨hframe, hresp⟩ := State.microStep_keeps_frame hlast
    obtain ⟨hc, hf, hr⟩ := State.microSteps_keeps n s.microStep (by omega)
    exact ⟨hc.trans s.microStep_cmds, hf.trans hframe, hr.trans hresp⟩

/-- After all that are left the block is idle, with one response more. -/
theorem State.microSteps_remaining {s : State} (h : s.rst = none) (hs : s.seq ≠ .idle) :
    (State.microSteps s.remaining s).seq = .idle ∧ (State.microSteps s.remaining s).cmds = s.cmds ∧
      (State.microSteps s.remaining s).responses.length = s.responses.length + 1 := by
  obtain ⟨n, hn⟩ := Nat.exists_eq_succ_of_ne_zero (fun h0 => hs (State.remaining_eq_zero.1 h0))
  have hleft := (lineRun_micro n s h (by omega)).2
  obtain ⟨hc, -, hr⟩ := State.microSteps_keeps n s (by omega)
  have hlast : (State.microSteps n s).seq = .sCsHigh := State.remaining_eq_one.1 (by omega)
  have hsplit : State.microSteps s.remaining s = (State.microSteps n s).microStep := by
    rw [hn, Nat.succ_eq_add_one, State.microSteps_add]; rfl
  rw [hsplit, State.microStep_sCsHigh hlast]
  exact ⟨rfl, hc, by simp [hr]⟩

/-- Settles O10: both steps are the micro-step. -/
theorem busyBlockHoldsCommands : Obligations.BusyBlockHoldsCommands := by
  intro s h hb
  refine ⟨s.microStep, stepWith_busy h hb, stepWith_busy h hb, s.microStep_cmds, fun hnext => ?_⟩
  exact State.microStep_keeps_frame fun hlast => hnext (State.microStep_sCsHigh_seq hlast)

/-- Settles O19: the run is micro-steps, of which `State.remaining` counts those left. -/
theorem runningCaptureAlwaysEnds : Obligations.RunningCaptureAlwaysEnds := by
  intro s h hb
  refine ⟨⟨_, (lineRun_micro s.remaining s h le_rfl).1, State.microSteps_remaining h hb⟩, fun n hn => ?_⟩
  obtain ⟨hrun, hleft⟩ := lineRun_micro n s h hn.le
  refine ⟨_, hrun, fun hidle => ?_, State.microSteps_keeps n s hn⟩
  have := State.remaining_eq_zero.2 hidle
  omega

/-! ### The configuration -/

/-- The registers that construct alone writes, and the count of constructs, stand in `t` as in `s` (10_state R13, R14). -/
def SameConfiguration (s t : State) : Prop :=
  t.tctype = s.tctype ∧ t.pins = s.pins ∧ t.soDir = s.soDir ∧ t.sckDir = s.sckDir ∧ t.csDir = s.csDir ∧
    t.constructs = s.constructs

theorem State.microStep_sameConfiguration (s : State) : SameConfiguration s s.microStep := by
  rw [State.microStep_frame]
  exact ⟨rfl, rfl, rfl, rfl, rfl, rfl⟩

theorem exec_sameConfiguration {i : Instr} {s t : State} (ht : exec i s = .next t) : SameConfiguration s t := by
  by_cases hi : i = .capture
  · rw [hi, exec_capture_eq] at ht; cases ht
    exact ⟨rfl, rfl, rfl, rfl, rfl, rfl⟩
  · rw [exec_answers hi] at ht; cases ht
    exact ⟨rfl, rfl, rfl, rfl, rfl, rfl⟩

/-- In the lines' view CAPTURE starts the sequencer. -/
theorem lineExec_capture (s : State) : lineExec .capture s = .next s.startCapture := rfl

/-- In the lines' view the other operations are as in the host's. -/
theorem lineExec_eq_exec {i : Instr} (hi : i ≠ .capture) (s : State) : lineExec i s = exec i s := by
  cases i with
  | capture => exact absurd rfl hi
  | rawFrame | faultDesc | coldjC | coldjF | hotjC | hotjF | hotjV | hotjAdj => rfl

theorem lineExec_sameConfiguration {i : Instr} {s t : State} (ht : lineExec i s = .next t) : SameConfiguration s t := by
  by_cases hi : i = .capture
  · rw [hi, lineExec_capture] at ht; cases ht
    exact ⟨rfl, rfl, rfl, rfl, rfl, rfl⟩
  · rw [lineExec_eq_exec hi] at ht
    exact exec_sameConfiguration ht

/-- If no operation changes the configuration, no step without a reset event does. -/
theorem stepWith_sameConfiguration
    (hrun : ∀ {i : Instr} {s t : State}, run i s = .next t → SameConfiguration s t)
    {s t : State} (h : s.rst = none) (ht : stepWith run s = .next t) : SameConfiguration s t := by
  obtain ⟨-, rfl⟩ | ⟨-, -, rfl⟩ | ⟨i, rest, -, -, hr⟩ | ⟨w, rest, -, -, -, rfl⟩ := stepWith_next_cases h ht
  · exact s.microStep_sameConfiguration
  · exact ⟨rfl, rfl, rfl, rfl, rfl, rfl⟩
  · have hcfg := hrun hr
    exact hcfg
  · exact ⟨rfl, rfl, rfl, rfl, rfl, rfl⟩

/-- Settles O28: neither view's operations change the configuration. -/
theorem configurationNeverChanges : Obligations.ConfigurationNeverChanges := fun _ _ h hstep =>
  hstep.elim (stepWith_sameConfiguration exec_sameConfiguration h) (stepWith_sameConfiguration lineExec_sameConfiguration h)

/-! ### Who writes FRAME -/

/-- An idle block whose next word is not that of CAPTURE responds at most: it makes no pin call and keeps FRAME. -/
theorem stepWith_not_capture (hrun : ∀ {i : Instr}, i ≠ .capture → ∀ s, run i s = exec i s) {s t : State}
    (h : s.rst = none) (hi : s.seq = .idle) (hc : s.cmds.head? ≠ some 0x04#8) (ht : stepWith run s = .next t) :
    t.frame = s.frame ∧ t.trace = s.trace := by
  obtain ⟨hb, -⟩ | ⟨-, -, rfl⟩ | ⟨i, rest, -, hcmds, hr⟩ | ⟨w, rest, -, -, -, rfl⟩ := stepWith_next_cases h ht
  · exact absurd hi hb
  · exact ⟨rfl, rfl⟩
  · have hne : i ≠ .capture := by rintro rfl; rw [hcmds] at hc; exact hc rfl
    rw [hrun hne, exec_answers hne] at hr
    cases hr
    exact ⟨rfl, rfl⟩
  · exact ⟨rfl, rfl⟩

/-- Settles O29: an idle block by `stepWith_not_capture`, a running CAPTURE by its micro-step. -/
theorem onlyCaptureWritesFrame : Obligations.OnlyCaptureWritesFrame := by
  refine ⟨fun s t h hi hc ht => ?_, fun s t h hb hlast ht => ?_⟩
  · exact ht.elim (fun ht => (stepWith_not_capture (fun _ _ => rfl) h hi hc ht).1)
      (fun ht => (stepWith_not_capture lineExec_eq_exec h hi hc ht).1)
  · have hstep : step s = .next s.microStep := stepWith_busy h hb
    have hline : lineStep s = .next s.microStep := stepWith_busy h hb
    rw [hstep, hline, or_self, Host.Outcome.next.injEq] at ht
    exact ht ▸ (State.microStep_keeps_frame hlast).1

end Sys2Proof.Machine
end

section
/-! PROOFS. The micro-steps refine the atomic CAPTURE (40_capture R93): the three rows before the loop, three rows for each bit, and
the last row. -/

namespace Sys2Proof.Machine

/-- The rows S_PRE, S_CSLOW and S_SETTLE are the statements before the loop. -/
theorem State.microSteps_begin (s : State) :
    State.microSteps 3 s.startCapture = { s.beginCapture with bitIdx := 31#5, seq := .sRise } := rfl

/-- The bit loop writes BITIDX before it reads it, and does not touch SEQ. -/
theorem State.captureLoop_bitIdx_seq {n : Nat} (hn : n + 1 ≤ 32) (s : State) (b : BitVec 5) (q : Seq) :
    State.captureLoop (n + 1) { s with bitIdx := b, seq := q } = { State.captureLoop (n + 1) s with seq := q } := by
  simp only [State.captureLoop_eq _ _ hn, Nat.succ_ne_zero, if_false]
  rfl

/-- Three micro-steps for each bit from `n` down to 0 are the loop over these bits. -/
theorem State.microSteps_bits : ∀ (n : Nat) (s : State), n < 32 → s.seq = .sRise → s.bitIdx = BitVec.ofNat 5 n →
    State.microSteps (3 * (n + 1)) s = { State.captureLoop (n + 1) s with seq := .sCsHigh }
  | 0, s, _, hq, hb => by
    rw [State.microSteps_bit hq, if_pos hb, hb]
    rfl
  | n + 1, s, hn, hq, hb => by
    have hne : s.bitIdx ≠ 0#5 := by rw [hb]; bv_omega
    have hdec : s.bitIdx - 1#5 = BitVec.ofNat 5 n := by rw [hb]; bv_omega
    rw [show 3 * (n + 1 + 1) = 3 + 3 * (n + 1) by omega, State.microSteps_add, State.microSteps_bit hq, if_neg hne,
      State.microSteps_bits n _ (by omega) rfl hdec, State.captureLoop_bitIdx_seq (by omega), hb]
    rfl

/-- R93: the 100 micro-steps after the acceptance of CAPTURE do what CAPTURE does at once. -/
theorem exec_capture_eq_microSteps (s : State) : exec .capture s = .next (State.microSteps 100 s.startCapture) := by
  rw [show 100 = 3 + (3 * (31 + 1) + 1) by rfl, State.microSteps_add, State.microSteps_begin, State.microSteps_add,
    State.microSteps_bits 31 _ (by decide) rfl rfl, State.captureLoop_bitIdx_seq (by decide)]
  rfl

/-- Settles O17: 101 steps in the lines' view are the acceptance and 100 micro-steps. -/
theorem microStepsRefineAtomicCapture : Obligations.MicroStepsRefineAtomicCapture := by
  intro s rest h hi hc
  have hstep : step s = exec .capture { s with cmds := rest } := stepWith_accept h hi hc
  obtain ⟨hrun, -⟩ := lineRun_micro 100 { s with cmds := rest, seq := .sPre } h le_rfl
  exact ⟨((lineRun_succ (lineStep_capture h hi hc) 100).trans hrun).trans
    ((exec_capture_eq_microSteps { s with cmds := rest }).symm.trans hstep.symm), hstep⟩

end Sys2Proof.Machine
end

section
/-! PROOFS. The sound states (Safety.lean): what one step must append and set to keep a state sound, the same row by row for the
micro-steps, and from it both views; and the order of the line events (40_capture R94 f). -/

namespace Sys2Proof.Machine

variable {run : Instr → State → Host.Outcome State Fault Refusal}

/-! ### The last write to a line -/

/-- Later events decide if they write the line. -/
theorem lastWrite_append (line : Line) (es fs : List PinEvent) :
    lastWrite line (es ++ fs) = (lastWrite line fs).or (lastWrite line es) := by
  induction es with
  | nil => simp [lastWrite]
  | cons e es ih =>
    simp only [List.cons_append, lastWrite, ih]
    cases lastWrite line fs <;> cases lastWrite line es <;> rfl

/-- A delay writes no line. -/
@[simp] theorem lastWrite_clockDelayEvents (line : Line) (us : Nat) : lastWrite line (clockDelayEvents us) = none := by
  by_cases h : us = 0 <;> simp [clockDelayEvents, h, lastWrite]

/-! ### Keeping a state sound -/

/-- What a step that only appends to the trace must show: the lines and SR as the new position asks, and each latch as the appended
events leave it. -/
theorem Sound.of_append {s t : State} (hs : Sound s) {es : List PinEvent} (htrace : t.trace = s.trace ++ es)
    (hcfg : SameConfiguration s t) (hlines : (t.sckOut, t.csOut) = linesAt t.seq)
    (hzeros : t.sr.toNat % 2 ^ unsampled t = 0) (hsck : t.sckOut = (lastWrite .sck es).getD s.sckOut)
    (hcs : t.csOut = (lastWrite .cs es).getD s.csOut) : Sound t := by
  obtain ⟨-, hpins, hso, hsckd, hcsd, -⟩ := hcfg
  refine ⟨hlines, hzeros, by rw [hso, hsckd, hcsd]; exact hs.directions, by rw [hpins]; exact hs.binding, ?_, ?_⟩
  · rw [htrace, lastWrite_append, hs.clockLatch, hsck]
    cases lastWrite .sck es <;> rfl
  · rw [htrace, lastWrite_append, hs.selectLatch, hcs]
    cases lastWrite .cs es <;> rfl

/-- The levels at a known position. -/
theorem Sound.lines_at {s : State} (hs : Sound s) {q : Seq} (h : s.seq = q) :
    s.sckOut = (linesAt q).1 ∧ s.csOut = (linesAt q).2 := by
  have hl := hs.lines
  rw [h] at hl
  exact ⟨congrArg Prod.fst hl, congrArg Prod.snd hl⟩

/-- The pending commands, the reset event and the responses are no part of soundness. -/
theorem Sound.responds {s : State} (hs : Sound s) (rst : Option ConstructArgs) (cmds : List Byte) (rs : List Response) :
    Sound { s with rst := rst, cmds := cmds, responses := rs } :=
  ⟨hs.lines, hs.zeros, hs.directions, hs.binding, hs.clockLatch, hs.selectLatch⟩

/-- R85: recording a level at bit `i` keeps the bits below `i` zero. -/
theorem recordLevel_zeros {sr : BitVec 32} {i : BitVec 5} (h : sr.toNat % 2 ^ (i.toNat + 1) = 0) (l : Level) :
    (recordLevel sr i l).toNat % 2 ^ i.toNat = 0 := by
  have hsr : sr.toNat % 2 ^ i.toNat = 0 :=
    Nat.mod_eq_zero_of_dvd ((Nat.pow_dvd_pow 2 (Nat.le_succ _)).trans (Nat.dvd_of_mod_eq_zero h))
  cases l with
  | low => exact hsr
  | high =>
    have hbit : (1#32 <<< i.toNat).toNat = 2 ^ i.toNat := by
      rw [BitVec.toNat_shiftLeft, Nat.shiftLeft_eq, BitVec.toNat_ofNat, Nat.one_mod, Nat.one_mul]
      exact Nat.mod_eq_of_lt (Nat.pow_lt_pow_right (by decide) i.isLt)
    rw [recordLevel, BitVec.toNat_or, Nat.or_mod_two_pow, hsr, hbit, Nat.mod_self, Nat.or_zero]

/-- Every micro-step keeps a sound state sound. -/
theorem Sound.microStep {s : State} (hs : Sound s) : Sound s.microStep := by
  have hcfg := s.microStep_sameConfiguration
  have hz := hs.zeros
  cases h : s.seq with
  | idle => rwa [State.microStep_idle h]
  | sPre =>
    obtain ⟨-, hcs⟩ := hs.lines_at h
    rw [State.microStep_sPre h] at hcfg ⊢
    exact hs.of_append rfl hcfg (by simp [linesAt, hcs]) (Nat.zero_mod _) rfl rfl
  | sCsLow =>
    obtain ⟨hsck, -⟩ := hs.lines_at h
    rw [State.microStep_sCsLow h] at hcfg ⊢
    exact hs.of_append rfl hcfg (by simp [linesAt, hsck]) (by simpa [unsampled, h] using hz) rfl rfl
  | sSettle =>
    obtain ⟨hsck, hcs⟩ := hs.lines_at h
    rw [State.microStep_sSettle h] at hcfg ⊢
    exact hs.of_append rfl hcfg (by simp [linesAt, hsck, hcs]) (by simpa [unsampled, h] using hz) rfl rfl
  | sRise =>
    obtain ⟨-, hcs⟩ := hs.lines_at h
    rw [State.microStep_sRise h] at hcfg ⊢
    exact hs.of_append (List.append_assoc _ _ _) hcfg (by simp [linesAt, hcs]) (by simpa [unsampled, h] using hz)
      (by simp [lastWrite]) (by simp [lastWrite])
  | sSample =>
    obtain ⟨hsck, hcs⟩ := hs.lines_at h
    rw [State.microStep_sSample h] at hcfg ⊢
    simp only [unsampled, h] at hz
    exact hs.of_append rfl hcfg (by simp [linesAt, hsck, hcs]) (recordLevel_zeros hz _) rfl rfl
  | sFall =>
    obtain ⟨-, hcs⟩ := hs.lines_at h
    simp only [unsampled, h] at hz
    by_cases hb : s.bitIdx = 0#5
    · rw [State.microStep_sFall_last h hb] at hcfg ⊢
      exact hs.of_append (List.append_assoc _ _ _) hcfg (by simp [linesAt, hcs]) (Nat.mod_one _)
        (by simp [lastWrite]) (by simp [lastWrite])
    · have hdec : (s.bitIdx - 1#5).toNat + 1 = s.bitIdx.toNat := by bv_omega
      rw [State.microStep_sFall_next h hb] at hcfg ⊢
      exact hs.of_append (List.append_assoc _ _ _) hcfg (by simp [linesAt, hcs]) (by simpa only [unsampled, hdec] using hz)
        (by simp [lastWrite]) (by simp [lastWrite])
  | sCsHigh =>
    obtain ⟨hsck, -⟩ := hs.lines_at h
    rw [State.microStep_sCsHigh h] at hcfg ⊢
    exact hs.of_append rfl hcfg (by simp [linesAt, hsck]) (Nat.mod_one _) rfl rfl

theorem Sound.microSteps : ∀ (n : Nat) {s : State}, Sound s → Sound (State.microSteps n s)
  | 0, _, hs => hs
  | n + 1, _, hs => Sound.microSteps n hs.microStep

/-- Starting the sequencer from IDLE moves no line. -/
theorem Sound.startCapture {s : State} (hs : Sound s) (hi : s.seq = .idle) : Sound s.startCapture := by
  refine hs.of_append (es := []) (List.append_nil _).symm ⟨rfl, rfl, rfl, rfl, rfl, rfl⟩ ?_ (Nat.mod_one _) rfl rfl
  rw [show (s.startCapture.sckOut, s.startCapture.csOut) = (s.sckOut, s.csOut) from rfl, hs.lines, hi]
  rfl

/-- An operation accepted in IDLE keeps a sound state sound; CAPTURE as the micro-steps it amounts to. -/
theorem exec_keeps_sound {i : Instr} {s t : State} (hs : Sound s) (hi : s.seq = .idle) (ht : exec i s = .next t) : Sound t := by
  by_cases hc : i = .capture
  · rw [hc, exec_capture_eq_microSteps, Host.Outcome.next.injEq] at ht
    exact ht ▸ (hs.startCapture hi).microSteps 100
  · rw [exec_answers hc] at ht; cases ht
    exact hs.responds _ _ _

theorem lineExec_keeps_sound {i : Instr} {s t : State} (hs : Sound s) (hi : s.seq = .idle) (ht : lineExec i s = .next t) :
    Sound t := by
  by_cases hc : i = .capture
  · rw [hc, lineExec_capture] at ht; cases ht
    exact hs.startCapture hi
  · rw [lineExec_eq_exec hc] at ht
    exact exec_keeps_sound hs hi ht

/-- Construct leaves a sound state, whatever was before it. -/
theorem sound_constructed (s : State) {p : PinBinding} (hp : p.distinct = true) (ty : ThermocoupleType) :
    Sound (s.constructed p ty) := by
  refine ⟨rfl, Nat.mod_one _, ⟨rfl, rfl, rfl⟩, hp, ?_, ?_⟩
  · rw [State.constructed_trace, lastWrite_append]; rfl
  · rw [State.constructed_trace, lastWrite_append]; rfl

/-- If the operations keep a sound idle state sound, so does every step. -/
theorem stepWith_keeps_sound
    (hrun : ∀ {i : Instr} {s t : State}, Sound s → s.seq = .idle → run i s = .next t → Sound t)
    {s t : State} (hs : Sound s) (ht : stepWith run s = .next t) : Sound t := by
  cases h : s.rst with
  | some a =>
    rw [stepWith_reset h] at ht
    obtain ⟨r, hr⟩ | ⟨ty, -, hd, hcon⟩ := construct_cases a { s with rst := none }
    · rw [hr] at ht; cases ht
    · rw [hcon] at ht; cases ht
      exact sound_constructed _ hd ty
  | none =>
    obtain ⟨-, rfl⟩ | ⟨-, -, rfl⟩ | ⟨i, rest, hi, -, hr⟩ | ⟨w, rest, -, -, -, rfl⟩ := stepWith_next_cases h ht
    · exact hs.microStep
    · exact hs
    · exact hrun (hs.responds s.rst rest s.responses) hi hr
    · exact hs.responds _ _ _

/-- The pins of the reset state differ (log entry 7). -/
theorem resetPins_distinct : Config.resetPins.distinct = true := by
  by_cases h : Config.pins.distinct = true
  · rw [Config.resetPins, if_pos h]; exact h
  · rw [Config.resetPins, if_neg h]; decide

/-- Settles O20: each clause by evaluation of the reset state, but for the pins. -/
theorem resetIsSound : Obligations.ResetIsSound :=
  ⟨rfl, Nat.mod_one _, ⟨rfl, rfl, rfl⟩, resetPins_distinct, rfl, rfl⟩

/-- Settles O21. -/
theorem everyStepKeepsSound : Obligations.EveryStepKeepsSound := fun _ _ => stepWith_keeps_sound exec_keeps_sound

/-- Settles O22. -/
theorem everyLineStepKeepsSound : Obligations.EveryLineStepKeepsSound := fun _ _ => stepWith_keeps_sound lineExec_keeps_sound

/-! ### The lines of a sound state -/

/-- No position has clock and chip-select both HIGH. -/
theorem linesAt_select_low {q : Seq} (h : (linesAt q).1 = .high) : (linesAt q).2 = .low := by
  revert h
  cases q <;> decide

/-- Settles O23: the levels are those of the position. -/
theorem clockHighOnlyUnderChipSelect : Obligations.ClockHighOnlyUnderChipSelect := by
  refine fun s hs => ⟨fun hi => hs.lines_at hi, fun hhigh => ?_⟩
  obtain ⟨hsck, hcs⟩ := hs.lines_at rfl
  exact hcs.trans (linesAt_select_low (hsck.symm.trans hhigh))

/-- The events of a clock-phase delay are delays. -/
theorem eq_delay_of_mem_clockDelayEvents {us : Nat} {e : PinEvent} (he : e ∈ clockDelayEvents us) : e = .delay us := by
  by_cases h : us = 0
  · simp [clockDelayEvents, h] at he
  · simpa [clockDelayEvents, h] using he

/-- A clock write and its delay, the events of S_RISE and S_FALL. -/
theorem mem_clockWrite {p : PinId} {l : Level} {us : Nat} {e : PinEvent}
    (he : e ∈ PinEvent.write .sck p l :: clockDelayEvents us) : e = .write .sck p l ∨ e = .delay us :=
  (List.mem_cons.1 he).imp_right eq_delay_of_mem_clockDelayEvents

/-- R90: which row makes which event. -/
theorem State.microStep_events {s : State} {e : PinEvent} (he : e ∈ newEvents s s.microStep) :
    (∃ p, e = .write .sck p .low) ∨ (∃ us, e = .delay us) ∨
    (s.seq = .sRise ∧ s.microStep.seq = .sSample ∧ ∃ p, e = .write .sck p .high) ∨
    (s.seq = .sSample ∧ s.microStep.seq = .sFall ∧ ∃ p l, e = .read p l) ∨
    ((s.seq = .sCsLow ∧ s.microStep.seq = .sSettle ∨ s.seq = .sCsHigh ∧ s.microStep.seq = .idle) ∧
      ∃ p l, e = .write .cs p l) := by
  cases h : s.seq with
  | idle =>
    rw [State.microStep_idle h, newEvents_of_append (List.append_nil _).symm] at he
    cases he
  | sPre =>
    rw [State.microStep_sPre h, newEvents_of_append rfl, List.mem_singleton] at he
    exact .inl ⟨_, he⟩
  | sCsLow =>
    rw [State.microStep_sCsLow h] at he ⊢
    rw [newEvents_of_append rfl, List.mem_singleton] at he
    exact .inr (.inr (.inr (.inr ⟨.inl ⟨rfl, rfl⟩, _, _, he⟩)))
  | sSettle =>
    rw [State.microStep_sSettle h, newEvents_of_append rfl, List.mem_singleton] at he
    exact .inr (.inl ⟨_, he⟩)
  | sRise =>
    rw [State.microStep_sRise h] at he ⊢
    rw [newEvents_of_append (List.append_assoc _ _ _)] at he
    obtain hw | hd := mem_clockWrite he
    · exact .inr (.inr (.inl ⟨rfl, rfl, _, hw⟩))
    · exact .inr (.inl ⟨_, hd⟩)
  | sSample =>
    rw [State.microStep_sSample h] at he ⊢
    rw [newEvents_of_append rfl, List.mem_singleton] at he
    exact .inr (.inr (.inr (.inl ⟨rfl, rfl, _, _, he⟩)))
  | sFall =>
    have hfall : e ∈ PinEvent.write .sck s.pins.sck .low :: clockDelayEvents Config.clkLowUs := by
      by_cases hb : s.bitIdx = 0#5
      · rwa [State.microStep_sFall_last h hb, newEvents_of_append (List.append_assoc _ _ _)] at he
      · rwa [State.microStep_sFall_next h hb, newEvents_of_append (List.append_assoc _ _ _)] at he
    obtain hw | hd := mem_clockWrite hfall
    · exact .inl ⟨_, hw⟩
    · exact .inr (.inl ⟨_, hd⟩)
  | sCsHigh =>
    rw [State.microStep_sCsHigh h] at he ⊢
    rw [newEvents_of_append rfl, List.mem_singleton] at he
    exact .inr (.inr (.inr (.inr ⟨.inr ⟨rfl, rfl⟩, _, _, he⟩)))

/-- Settles O24: the row of each event, and the levels of a sound state at that row and at the next. -/
theorem lineEventsKeepTheirOrder : Obligations.LineEventsKeepTheirOrder := by
  intro s t hs h hb ht e he
  obtain rfl : s.microStep = t := Host.Outcome.next.inj ((stepWith_busy h hb).symm.trans ht)
  obtain ⟨p, rfl⟩ | ⟨us, rfl⟩ | ⟨hq, hq', p, rfl⟩ | ⟨hq, hq', p, l, rfl⟩ | ⟨hq, p, l, rfl⟩ := State.microStep_events he
  · simp
  · simp
  · obtain ⟨-, hcs⟩ := hs.lines_at hq
    obtain ⟨-, hcs'⟩ := hs.microStep.lines_at hq'
    simp [hcs, hcs', linesAt]
  · obtain ⟨hsck, hcs⟩ := hs.lines_at hq
    obtain ⟨hsck', hcs'⟩ := hs.microStep.lines_at hq'
    simp [hsck, hsck', hcs, hcs', linesAt]
  · have hlow : s.sckOut = .low ∧ s.microStep.sckOut = .low := by
      obtain ⟨hq, hq'⟩ | ⟨hq, hq'⟩ := hq
      · exact ⟨(hs.lines_at hq).1, (hs.microStep.lines_at hq').1⟩
      · exact ⟨(hs.lines_at hq).1, (hs.microStep.lines_at hq').1⟩
    simp [hlow]

end Sys2Proof.Machine
end

section
/-! PROOFS. CAPTURE as one step: its frame, what it reads, its accumulator, its trace and its corner cases (40_capture R80 to R94); and
the other operations, which answer from FRAME and TCTYPE alone (10_state R12, R14, R21). -/

namespace Sys2Proof.Machine

/-! ### What CAPTURE changes and reads -/

/-- Settles O12: CAPTURE in one record. -/
theorem captureLeavesTheRest : Obligations.CaptureLeavesTheRest := by
  intro s t ht
  rw [exec_capture_eq] at ht
  cases ht
  rfl

/-- Settles O13: the levels to come depend on the line alone. -/
theorem captureIgnoresOldFrameAndType : Obligations.CaptureIgnoresOldFrameAndType :=
  fun s _ _ _ _ _ => ⟨_, _, exec_capture_eq s, exec_capture_eq _, rfl, rfl, rfl⟩

/-! ### The accumulator -/

/-- R85: a level is recorded at its own bit alone. -/
theorem getLsbD_recordLevel (sr : BitVec 32) (i : BitVec 5) (l : Level) {j : Nat} (hj : j < 32) :
    (recordLevel sr i l).getLsbD j = if j = i.toNat then (sr.getLsbD j || decide (l = .high)) else sr.getLsbD j := by
  have hrec : recordLevel sr i l = sr ||| levelBit l i.toNat := by
    cases l with
    | low => simp [recordLevel, levelBit]
    | high => rfl
  rw [hrec, BitVec.getLsbD_or, getLsbD_levelBit l _ hj]
  by_cases h : j = i.toNat <;> simp [h]

/-- SR after the loop is the assembly of the levels. -/
theorem State.captureLoop_sr (s : State) : (State.captureLoop 32 s.beginCapture).sr = assemble (s.levels 32) := by
  rw [State.captureLoop_eq 32 _ le_rfl, State.beginCapture_eq]
  exact BitVec.zero_or

/-- One step of the shift-register form of R85: a shift left with the level coming in at bit 0. -/
def shiftIn (sr : BitVec 32) (l : Level) : BitVec 32 := (sr <<< 1) ||| (if l = .high then 1#32 else 0#32)

/-- R85: shifting levels in from the right moves up what was there and assembles the levels below it. -/
theorem foldl_shiftIn (ls : List Level) (sr : BitVec 32) :
    ls.foldl shiftIn sr = (sr <<< ls.length) ||| assemble ls := by
  induction ls generalizing sr with
  | nil => simp [assemble]
  | cons l ls ih =>
    have hbit : (if l = .high then 1#32 else 0#32) <<< ls.length = levelBit l ls.length := by
      cases l <;> simp [levelBit]
    rw [List.foldl_cons, ih, shiftIn, BitVec.shiftLeft_or_distrib, hbit, ← BitVec.shiftLeft_add, assemble, BitVec.or_assoc,
      List.length_cons, Nat.add_comm 1]

/-- Settles O14: the loop assembles the levels, bit by bit and as a shift register. -/
theorem accumulatorRecordsEachSample : Obligations.AccumulatorRecordsEachSample := by
  refine ⟨fun s => by rw [State.beginCapture_eq], fun sr i l j => getLsbD_recordLevel sr i l, fun s i hi => ?_, fun s => ?_⟩
  · have hbit := s.getLsbD_assemble_levels (n := 32) (k := 31 - i) le_rfl (by omega)
    rwa [show 32 - 1 - (31 - i) = i by omega, ← State.captureLoop_sr] at hbit
  · have hshift := foldl_shiftIn (s.levels 32) 0#32
    rw [BitVec.zero_shiftLeft, BitVec.zero_or, ← State.captureLoop_sr] at hshift
    exact hshift.symm

/-! ### The trace -/

theorem length_flatMap_bitEvents (p : PinBinding) (hi lo : Nat) (ls : List Level) :
    (ls.flatMap (bitEvents p hi lo)).length =
      ls.length * (3 + (clockDelayEvents hi).length + (clockDelayEvents lo).length) := by
  have hbit (l : Level) : (bitEvents p hi lo l).length = 3 + (clockDelayEvents hi).length + (clockDelayEvents lo).length := by
    simp [bitEvents]; omega
  simp [List.length_flatMap, hbit]

/-- R91: four events and three for each bit, beside the clock delays. -/
theorem length_captureEvents (p : PinBinding) (settle hi lo : Nat) (ls : List Level) :
    (captureEvents p settle hi lo ls).length =
      4 + ls.length * (3 + (clockDelayEvents hi).length + (clockDelayEvents lo).length) := by
  simp only [captureEvents, List.length_append, length_flatMap_bitEvents, List.length_cons, List.length_nil]
  omega

/-- The events of a kind in a trace without clock delays: `fixed` in the frame of a CAPTURE and `each` for a bit, whatever its level. -/
theorem countP_captureEvents {q : PinEvent → Bool} {p : PinBinding} {settle fixed each : Nat}
    (hfixed : (captureEvents p settle 0 0 []).countP q = fixed) (heach : ∀ l, (bitEvents p 0 0 l).countP q = each)
    (ls : List Level) : (captureEvents p settle 0 0 ls).countP q = fixed + ls.length * each := by
  have hbits : (ls.flatMap (bitEvents p 0 0)).countP q = ls.length * each := by
    simp [List.countP_flatMap, Function.comp_def, heach]
  simp only [captureEvents, List.flatMap_nil, List.append_nil, List.countP_append, hbits] at hfixed ⊢
  omega

/-- Settles O15: CAPTURE in one record, the counts for each bit, and `stepWith_not_capture`. -/
theorem captureTraceIsExact : Obligations.CaptureTraceIsExact := by
  refine ⟨fun s => ⟨_, exec_capture_eq s, rfl⟩, fun p settle ls hls => ⟨?_, ?_, ?_, ?_⟩, fun p settle hi lo ls hls hhi hlo => ?_,
    fun s t h hi hc ht => (stepWith_not_capture (fun _ _ => rfl) h hi hc ht).2⟩
  · rw [length_captureEvents, hls]; rfl
  · rw [countP_captureEvents (fixed := 3) (each := 2) rfl (fun _ => rfl), hls]
  · rw [countP_captureEvents (fixed := 0) (each := 1) rfl (fun _ => rfl), hls]
  · rw [countP_captureEvents (fixed := 1) (each := 0) rfl (fun _ => rfl), hls]
  · rw [length_captureEvents, hls, clockDelayEvents, clockDelayEvents, if_neg hhi, if_neg hlo]; rfl

/-! ### Corner cases -/

/-- A CAPTURE of a line that shows the levels `f`. -/
theorem exec_capture_of_draw {s : State} {f : Nat → Level} (h : ∀ k, k < 32 → s.draw k = f k) :
    ∃ t, exec .capture s = .next t ∧ t.frame = assemble ((List.range 32).map f) ∧
      t.responses = s.responses ++ [.ok (validFlag t.frame) 0#64 none] := by
  have hlevels : s.levels 32 = (List.range 32).map f := List.map_congr_left fun k hk => h k (List.mem_range.1 hk)
  exact ⟨_, exec_capture_eq s, congrArg assemble hlevels, rfl⟩

/-- Settles O16: (a) to (c) by the frame assembled from the line, (d) since CAPTURE does not read FRAME. -/
theorem captureCornerCases : Obligations.CaptureCornerCases := by
  refine fun s => ⟨fun h => ?_, fun h => ?_, fun h => ?_, fun t _ => ?_⟩
  · obtain ⟨t, ht, hf, hr⟩ := exec_capture_of_draw (f := fun _ => .low) h
    replace hf : t.frame = 0x00000000#32 := hf.trans (by decide)
    rw [hf] at hr
    exact ⟨t, ht, hf, hr, by rw [hf]; decide, by rw [hf]; decide⟩
  · obtain ⟨t, ht, hf, hr⟩ := exec_capture_of_draw (f := fun _ => .high) h
    replace hf : t.frame = 0xFFFFFFFF#32 := hf.trans (by decide)
    rw [hf] at hr
    exact ⟨t, ht, hf, hr, by rw [hf]; decide, by rw [hf]; decide, by rw [hf]; decide⟩
  · obtain ⟨t, ht, hf, hr⟩ := exec_capture_of_draw h
    replace hf : t.frame = 0x00010000#32 := hf.trans (by decide)
    rw [hf] at hr
    exact ⟨t, ht, hf, hr, by rw [hf]; decide⟩
  · obtain ⟨u, v, hu, hv, hframe, -⟩ := captureIgnoresOldFrameAndType t 0#32 t.tctype t.sr t.bitIdx t.seq
    exact ⟨u, v, hu, hv, hframe.symm⟩

/-! ### The operations that only answer -/

/-- R14: HOTJ.ADJ apart, no answer depends on the type. -/
theorem answer_type_irrelevant {i : Instr} (hi : i ≠ .hotjAdj) (f : Frame) (ty ty' : ThermocoupleType) :
    answer i f ty = answer i f ty' := by
  cases i with
  | hotjAdj => exact absurd rfl hi
  | capture | rawFrame | faultDesc | coldjC | coldjF | hotjC | hotjF | hotjV => rfl

/-- Settles O30: the answer is a function of FRAME and TCTYPE, which answering leaves. -/
theorem decodeOperationsAreRepeatable : Obligations.DecodeOperationsAreRepeatable := by
  intro i s hi
  refine ⟨answer i s.frame s.tctype, exec_answers hi s, (exec_answers hi _).trans ?_⟩
  rw [State.respond, List.append_assoc]
  rfl

/-- Settles O31: CAPTURE in one record, the other seven by their answer. -/
theorem typeMattersToHotjAdjOnly : Obligations.TypeMattersToHotjAdjOnly := by
  intro i s ty hi
  by_cases hc : i = .capture
  · subst hc
    exact ⟨_, exec_capture_eq s, exec_capture_eq _⟩
  · refine ⟨_, exec_answers hc s, (exec_answers hc _).trans ?_⟩
    rw [answer_type_irrelevant hi s.frame s.tctype ty]
    rfl

/-- R21: what an operation adds to the two logs, and what it leaves in the rest of the state, is the same whatever they held. -/
theorem exec_adds (i : Instr) (s : State) : ∃ (t : State) (r : Response) (added : List PinEvent), ∀ rs es,
    exec i { s with responses := rs, trace := es } = .next { t with responses := rs ++ [r], trace := es ++ added } := by
  by_cases hc : i = .capture
  · subst hc
    obtain ⟨t, ht⟩ : ∃ t, exec .capture s = .next t := ⟨_, exec_capture s⟩
    refine ⟨t, .ok (validFlag (assemble (s.levels 32))) 0#64 none,
      captureEvents s.pins Config.settleUs Config.clkHighUs Config.clkLowUs (s.levels 32), fun rs es => ?_⟩
    rw [exec_capture_eq] at ht ⊢
    cases ht
    rfl
  · refine ⟨s, answer i s.frame s.tctype, [], fun rs es => ?_⟩
    rw [exec_answers hc, List.append_nil]
    rfl

/-- Settles O32: the events `exec_adds` names are the new events. -/
theorem earlierOutputsLeaveNoTrace : Obligations.EarlierOutputsLeaveNoTrace := by
  intro i s rs es
  obtain ⟨t, r, added, hadds⟩ := exec_adds i s
  have hnew : newEvents s { t with responses := s.responses ++ [r], trace := s.trace ++ added } = added :=
    newEvents_of_append rfl
  refine ⟨_, r, hadds s.responses s.trace, rfl, ?_, ?_⟩
  · rw [hnew]
  · rw [hnew]
    exact hadds rs es

end Sys2Proof.Machine
end

section
/-! PROOFS. The codes again: the three forms of sign extension (41_field_extract R103) and the round trip over both ranges
(95_test_vectors S4). -/

namespace Sys2Proof.Machine

/-- R103: the cold code is the arithmetic right shift by 20 of the frame with the field moved to the top. -/
theorem coldCode_eq_asr32 (f : Frame) : coldCode f = asr32 (f <<< 16) 20 := by
  have hfield : (f <<< 16).extractLsb' 20 12 = f.extractLsb' 4 12 := by
    apply BitVec.eq_of_getLsbD_eq
    intro i hi
    rw [BitVec.getLsbD_extractLsb', BitVec.getLsbD_extractLsb', BitVec.getLsbD_shiftLeft,
      show 20 + i - 16 = 4 + i by omega]
    simp [hi]
    omega
  rw [asr32_eq_toInt_topField _ (by decide), hfield]
  rfl

/-- Bit `i` of a word as arithmetic on the word. -/
theorem getLsbD_eq_decide (f : Frame) (i : Nat) : f.getLsbD i = decide (f.toNat / 2 ^ i % 2 = 1) := by
  rw [BitVec.getLsbD, Nat.testBit_eq_decide_div_mod_eq]

/-- Settles O35: both shifts, and the correction by the sign bit of each field. -/
theorem signExtensionFormsAgree : Obligations.SignExtensionFormsAgree := by
  refine fun f => ⟨hotCode_eq_asr32 f, coldCode_eq_asr32 f, ?_, ?_⟩
  · rw [hotCode_eq_ite, getLsbD_eq_decide, Nat.shiftRight_eq_div_pow]
    have := f.isLt
    simp only [decide_eq_true_eq]
    split <;> split <;> omega
  · rw [coldCode_eq_ite, getLsbD_eq_decide, Nat.shiftRight_eq_div_pow]
    simp only [decide_eq_true_eq]
    split <;> split <;> omega

/-- Every hot code is that of a frame, whatever stands in bits 17 to 0. -/
theorem hotCode_ofNat {h : Int} {x : Nat} (hlo : -8192 ≤ h) (hhi : h ≤ 8191) (hx : x < 2 ^ 18) :
    hotCode (BitVec.ofNat 32 ((h % 16384).toNat * 2 ^ 18 + x)) = h := by
  rw [hotCode_eq_ite, BitVec.toNat_ofNat, Nat.shiftRight_eq_div_pow]
  split <;> omega

/-- Every cold code is that of a frame, whatever stands in the other bits. -/
theorem coldCode_ofNat {c : Int} {y z : Nat} (hlo : -2048 ≤ c) (hhi : c ≤ 2047) (hz : z < 16) :
    coldCode (BitVec.ofNat 32 (y * 65536 + (c % 4096).toNat * 16 + z)) = c := by
  rw [coldCode_eq_ite, BitVec.toNat_ofNat, Nat.shiftRight_eq_div_pow]
  split <;> omega

/-- Settles O36. -/
theorem codesRoundTrip : Obligations.CodesRoundTrip :=
  ⟨fun _ _ => hotCode_ofNat, fun _ _ _ hlo hhi _ => coldCode_ofNat hlo hhi⟩

end Sys2Proof.Machine
end

section
/-! PROOFS. Rounding is to the nearest binary64 number, a tie to the even last bit (00_scope R8 b). A magnitude is compared with the
rounded one by the quanta of the rounding: a whole number of them is beaten by the rounded quotient, a magnitude between two of them
belongs to a lower binade and lies below the foot of the exact result's. -/

namespace Sys2Proof.Machine.Binary64

/-! ### Rounding a quotient -/

/-- The rounded quotient is the nearest natural number, and even where another is as near. -/
theorem roundDiv_nearest (n j : Nat) {d : Nat} (hd : 0 < d) :
    ((roundDiv n d * d : Nat) - n : Int).natAbs ≤ ((j * d : Nat) - n : Int).natAbs ∧
      (((roundDiv n d * d : Nat) - n : Int).natAbs = ((j * d : Nat) - n : Int).natAbs → j ≠ roundDiv n d →
        roundDiv n d % 2 = 0) := by
  have hdiv := Nat.div_add_mod' n d
  have hmod := Nat.mod_lt n hd
  have hbelow : j < n / d → j * d + d ≤ n / d * d := fun h => by
    rw [← Nat.succ_mul]; exact Nat.mul_le_mul_right d h
  have habove : n / d + 1 < j → n / d * d + d + d ≤ j * d := fun h => by
    rw [← Nat.succ_mul, ← Nat.succ_mul]; exact Nat.mul_le_mul_right d h
  have hsucc : (n / d + 1) * d = n / d * d + d := Nat.succ_mul (n / d) d
  have hcases : j < n / d ∨ j = n / d ∨ j = n / d + 1 ∨ n / d + 1 < j := by omega
  simp only [roundDiv]
  obtain h | rfl | rfl | h := hcases
  · have := hbelow h
    split <;> omega
  · split <;> omega
  · split <;> omega
  · have := habove h
    split <;> omega

/-- The distance of a number of quanta from a quotient, over the quotient's denominator. -/
theorem abs_quanta_sub (a sh num : Nat) {den : Nat} (hd : 0 < den) :
    |((a * 2 ^ sh : Nat) : Rat) - num / den| = (((a * (den * 2 ^ sh) : Nat) - num : Int).natAbs : Rat) / den := by
  have hdq : (0 : Rat) < den := by exact_mod_cast hd
  have hdiff : ((a * 2 ^ sh : Nat) : Rat) - num / den = (((a * (den * 2 ^ sh) : Nat) - num : Int) : Rat) / den := by
    push_cast
    field_simp
  rw [hdiff, abs_div, abs_of_pos hdq, Nat.cast_natAbs, Int.cast_abs]

/-- Of two numbers up to a third the greater is the nearer. -/
theorem abs_sub_lt_of_lt_le {a b x : Rat} (hab : a < b) (hbx : b ≤ x) : |b - x| < |a - x| := by
  rw [abs_of_nonpos (by linarith), abs_of_nonpos (by linarith)]
  linarith

/-! ### Rounding a magnitude -/

/-- A rounded magnitude that is finite is at least as near as any significand times a power of two, and even where another is as
near. -/
theorem roundMag_nearest (neg : Bool) {num den m : Nat} (e : Nat) (hd : 0 < den) (hfin : roundMag num den < 2047 * 2 ^ 52)
    (hm : m < 2 ^ 53) :
    |(magUnits (pack neg (roundMag num den)) : Rat) - num / den| ≤ |((m * 2 ^ e : Nat) : Rat) - num / den| ∧
      (|(magUnits (pack neg (roundMag num den)) : Rat) - num / den| = |((m * 2 ^ e : Nat) : Rat) - num / den| →
        m * 2 ^ e ≠ magUnits (pack neg (roundMag num den)) → roundMag num den % 2 = 0) := by
  obtain ⟨sh, k, hr, hfull, hle, hk, -, hfoot⟩ := roundMag_shape num den hd
  have hr : roundMag num den = sh * 2 ^ 52 + k := by omega
  have hmag : magUnits (pack neg (roundMag num den)) = k * 2 ^ sh := by
    rw [hr] at hfin ⊢
    exact (magUnits_pack neg sh k hfull hle hfin).2
  have hdq : (0 : Rat) < den := by exact_mod_cast hd
  have hquanta (j : Nat) : |((k * 2 ^ sh : Nat) : Rat) - num / den| ≤ |((j * 2 ^ sh : Nat) : Rat) - num / den| ∧
      (|((k * 2 ^ sh : Nat) : Rat) - num / den| = |((j * 2 ^ sh : Nat) : Rat) - num / den| → j ≠ k → k % 2 = 0) := by
    obtain ⟨hnear, htie⟩ := roundDiv_nearest num j (Nat.mul_pos hd (Nat.two_pow_pos sh))
    rw [← hk] at hnear htie
    rw [abs_quanta_sub _ _ _ hd, abs_quanta_sub _ _ _ hd, div_le_div_iff_of_pos_right hdq, div_left_inj' hdq.ne']
    exact ⟨by exact_mod_cast hnear, fun h => htie (by exact_mod_cast h)⟩
  rw [hmag]
  rcases Nat.lt_or_ge e sh with hlow | hhigh
  · have hbelow : m * 2 ^ e < 2 ^ 52 * 2 ^ sh := by
      calc m * 2 ^ e < 2 ^ 53 * 2 ^ e := Nat.mul_lt_mul_of_pos_right hm (Nat.two_pow_pos e)
        _ = 2 ^ 52 * 2 ^ (e + 1) := by ring
        _ ≤ 2 ^ 52 * 2 ^ sh := Nat.mul_le_mul_left _ (Nat.pow_le_pow_right (by decide) hlow)
    have hexact : ((2 ^ 52 * 2 ^ sh : Nat) : Rat) ≤ num / den := by
      rw [le_div_iff₀ hdq]
      have := hfoot.resolve_left (by omega)
      rw [Nat.add_comm, Nat.pow_add] at this
      exact_mod_cast this
    have hbelow : ((m * 2 ^ e : Nat) : Rat) < ((2 ^ 52 * 2 ^ sh : Nat) : Rat) := by exact_mod_cast hbelow
    have hstrict : |((k * 2 ^ sh : Nat) : Rat) - num / den| < |((m * 2 ^ e : Nat) : Rat) - num / den| := by
      exact (hquanta (2 ^ 52)).1.trans_lt (abs_sub_lt_of_lt_le hbelow hexact)
    exact ⟨hstrict.le, fun h => absurd h hstrict.ne⟩
  · have hsplit : m * 2 ^ e = m * 2 ^ (e - sh) * 2 ^ sh := by rw [Nat.mul_assoc, ← Nat.pow_add, Nat.sub_add_cancel hhigh]
    obtain ⟨hnear, htie⟩ := hquanta (m * 2 ^ (e - sh))
    rw [hsplit]
    refine ⟨hnear, fun h hne => ?_⟩
    have := htie h fun hj => hne (by rw [hj])
    omega

/-! ### Rounding a number -/

theorem significand_lt (p : Word64) : significand p < 2 ^ 53 := by
  have : fracField p < 2 ^ 52 := (p.extractLsb' 0 52).isLt
  unfold significand
  split <;> omega

/-- A finite pattern does not hold the magnitude of infinity. -/
theorem roundMag_lt_of_isFinite {neg : Bool} {num den : Nat} (h : isFinite (pack neg (roundMag num den)) = true) :
    roundMag num den < 2047 * 2 ^ 52 := by
  have hle : roundMag num den ≤ 2047 * 2 ^ 52 := Nat.min_le_right _ _
  have hexp := expField_pack neg (roundMag num den) (by omega)
  simp only [isFinite, hexp, bne_iff_ne, ne_eq] at h
  omega

theorem getLsbD_pack_zero {neg : Bool} {m : Nat} (hm : m < 2 ^ 63) (h : m % 2 = 0) : (pack neg m).getLsbD 0 = false := by
  have heven : (pack neg m).toNat % 2 = 0 := by
    rw [pack_toNat neg m hm]
    split <;> omega
  rw [BitVec.getLsbD, Nat.testBit_zero, heven]
  rfl

/-- `p` is a binary64 number nearest `q`, and its last bit is 0 where another value is as near. -/
def NearestTo (p : Word64) (q : Rat) : Prop :=
  ∀ p' : Word64, isFinite p' = true → |value p - q| ≤ |value p' - q| ∧
    (|value p - q| = |value p' - q| → value p' ≠ value p → p.getLsbD 0 = false)

/-- Distances of values from a number, in units and with the number's sign taken out. -/
theorem abs_value_sub (p : Word64) {q x : Rat} {neg : Bool} (hq : q * one = (if neg then -1 else 1) * x) :
    |value p - q| = |(if sign p = neg then 1 else -1) * (magUnits p : Rat) - x| / one := by
  have h1 := one_pos
  have hdiff : value p - q = (units p - q * one) / one := by
    unfold value
    field_simp
  rw [hdiff, abs_div, abs_of_pos h1, hq]
  congr 1
  unfold units
  cases sign p <;> cases neg <;> simp
  · rw [← abs_neg]; ring_nf
  · rw [← abs_neg]; ring_nf

theorem value_eq_zero {p : Word64} (h : magUnits p = 0) : value p = 0 := by
  simp [value, units, h]

/-- A rounding that is finite is to nearest, ties to even: among the magnitudes by `roundMag_nearest`, and a number of the other sign is
no nearer than 0. -/
theorem RoundsTo.nearest {p : Word64} {q : Rat} (h : RoundsTo p q) (hfin : isFinite p = true) : NearestTo p q := by
  obtain ⟨neg, num, den, hd, rfl, hq⟩ := h
  intro p' hfin'
  have hlt := roundMag_lt_of_isFinite hfin
  have h1 := one_pos
  have hx : (0 : Rat) ≤ num / den := by positivity
  have hsign := sign_pack neg (roundMag num den) (by omega)
  have hbit : roundMag num den % 2 = 0 → (pack neg (roundMag num den)).getLsbD 0 = false := getLsbD_pack_zero (by omega)
  rw [abs_value_sub _ hq, abs_value_sub p' hq, hsign, if_pos rfl, one_mul, div_le_div_iff_of_pos_right h1, div_left_inj' h1.ne']
  by_cases hs : sign p' = neg
  · obtain ⟨hnear, htie⟩ := roundMag_nearest neg (expField p' - 1) hd hlt (significand_lt p')
    rw [if_pos hs, one_mul]
    refine ⟨hnear, fun heq hne => hbit (htie heq fun hmag => hne ?_)⟩
    unfold value units
    rw [hsign, hs, ← hmag]
    rfl
  · obtain ⟨hnear, htie⟩ := roundMag_nearest neg (m := 0) 0 hd hlt (by decide)
    have hM : (0 : Rat) ≤ magUnits p' := Nat.cast_nonneg _
    have hother : |-1 * (magUnits p' : Rat) - num / den| = magUnits p' + num / den := by
      rw [abs_of_nonpos (by linarith)]
      ring
    rw [Nat.zero_mul, Nat.cast_zero, zero_sub, abs_neg, abs_of_nonneg hx] at hnear htie
    rw [if_neg hs, hother]
    refine ⟨by linarith, fun heq hne => ?_⟩
    have hzero : (magUnits p' : Rat) = 0 := by linarith
    refine hbit (htie (by linarith) fun hmag => hne ?_)
    rw [value_eq_zero (by exact_mod_cast hzero), value_eq_zero hmag.symm]

/-! ### The operations -/

/-- `a (-) b` is the exact difference rounded once. -/
theorem sub_roundsTo {a b : Word64} (ha : isFinite a = true) (hb : isFinite b = true) :
    RoundsTo (sub a b) (value a - value b) := by
  obtain ⟨hfin, hval⟩ := neg_spec b
  have := add_roundsTo ha (hfin.trans hb)
  rwa [hval, ← sub_eq_add_neg] at this

/-- Settles O40: each of the three operations rounds its exact result once, and a rounding is to nearest, ties to even. -/
theorem arithmeticIsCorrectlyRounded : Obligations.ArithmeticIsCorrectlyRounded := by
  intro a b ha hb q r hqr
  have hround : RoundsTo r q := by
    obtain ⟨rfl, rfl⟩ | ⟨rfl, rfl⟩ | ⟨rfl, rfl⟩ := hqr
    · exact mul_roundsTo ha hb
    · exact add_roundsTo ha hb
    · exact sub_roundsTo ha hb
  exact ⟨fun hq => (hround.close le_rfl hq).1, fun hr => hround.nearest hr⟩

end Sys2Proof.Machine.Binary64
end

section
/-! PROOFS. The linear results over the whole ranges of the codes (42_linear_scale R127): they increase, and are 0 or above 2^-5. -/

namespace Sys2Proof.Machine

open Binary64

/-! ### Accuracy for a code, whatever frame holds it -/

theorem exists_coldCode {c : Int} (hlo : -2048 ≤ c) (hhi : c ≤ 2047) : ∃ f, coldCode f = c :=
  ⟨_, coldCode_ofNat (y := 0) (z := 0) hlo hhi (by decide)⟩

theorem exists_hotCode {h : Int} (hlo : -8192 ≤ h) (hhi : h ≤ 8191) : ∃ f, hotCode f = h :=
  ⟨_, hotCode_ofNat (x := 0) hlo hhi (by decide)⟩

theorem value_scale_kColdC {c : Int} (hlo : -2048 ≤ c) (hhi : c ≤ 2047) : value (scale c kColdC) = c * (1 / 16) :=
  (scale_exact (by omega) (by decide) (by decide) value_kColdC).2

theorem value_scale_kHotC {h : Int} (hlo : -8192 ≤ h) (hhi : h ≤ 8191) : value (scale h kHotC) = h * (1 / 4) :=
  (scale_exact (by omega) (by decide) (by decide) value_kHotC).2

theorem value_scaleF_kColdF {c : Int} (hlo : -2048 ≤ c) (hhi : c ≤ 2047) :
    |value (scaleF c kColdF) - (c * (9 / 80) + 32)| < 1 / 2 ^ 44 := by
  obtain ⟨f, rfl⟩ := exists_coldCode hlo hhi
  exact (scaleF_kColdF_close f).2

theorem value_scaleF_kHotF {h : Int} (hlo : -8192 ≤ h) (hhi : h ≤ 8191) :
    |value (scaleF h kHotF) - (h * (9 / 20) + 32)| < 1 / 2 ^ 40 := by
  obtain ⟨f, rfl⟩ := exists_hotCode hlo hhi
  exact (scaleF_kHotF_close f).2

theorem value_scale_kHotV {h : Int} (hlo : -8192 ≤ h) (hhi : h ≤ 8191) :
    |value (scale h kHotV) - h * (1133 / 125)| < 1 / 2 ^ 36 := by
  obtain ⟨f, rfl⟩ := exists_hotCode hlo hhi
  exact (scale_kHotV_close f).2

/-! ### What the accuracy is enough for -/

/-- Numbers within 2^-36 of two that are more than 2^-35 apart are in the same order. -/
theorem lt_of_close {x y a b : Rat} (hx : |x - a| < 1 / 2 ^ 36) (hy : |y - b| < 1 / 2 ^ 36) (hab : a + 1 / 2 ^ 35 ≤ b) : x < y := by
  rw [abs_lt] at hx hy
  linarith

/-- A number within 2^-36 of one of magnitude at least 1/20 is above 2^-5 in magnitude. -/
theorem lt_abs_of_close {x a : Rat} (hx : |x - a| < 1 / 2 ^ 36) (ha : a ≤ -(1 / 20) ∨ 1 / 20 ≤ a) : 1 / 2 ^ 5 < |x| := by
  rw [abs_lt] at hx
  obtain ha | ha := ha
  · exact lt_abs.2 (.inr (by linarith))
  · exact lt_abs.2 (.inl (by linarith))

/-- A non-zero code is at least 1 in magnitude. -/
theorem code_rat_cases {n : Int} (hn : n ≠ 0) : (n : Rat) ≤ -1 ∨ (1 : Rat) ≤ n := by
  have : n ≤ -1 ∨ 1 ≤ n := by omega
  exact_mod_cast this

/-- COLDJ.F is never near 0: `9 c + 2560` is at least 4 in magnitude. -/
theorem coldFahrenheit_rat_cases (c : Int) : (c * (9 / 80) + 32 : Rat) ≤ -(1 / 20) ∨ (1 / 20 : Rat) ≤ c * (9 / 80) + 32 := by
  have hint : 9 * c + 2560 ≤ -4 ∨ 4 ≤ 9 * c + 2560 := by omega
  have hrat : (9 * c + 2560 : Rat) ≤ -4 ∨ (4 : Rat) ≤ 9 * c + 2560 := by exact_mod_cast hint
  exact hrat.imp (fun h => by linarith) (fun h => by linarith)

/-- HOTJ.F is never near 0: `9 h + 640` is not 0. -/
theorem hotFahrenheit_rat_cases (h : Int) : (h * (9 / 20) + 32 : Rat) ≤ -(1 / 20) ∨ (1 / 20 : Rat) ≤ h * (9 / 20) + 32 := by
  have hint : 9 * h + 640 ≤ -1 ∨ 1 ≤ 9 * h + 640 := by omega
  have hrat : (9 * h + 640 : Rat) ≤ -1 ∨ (1 : Rat) ≤ 9 * h + 640 := by exact_mod_cast hint
  exact hrat.imp (fun h => by linarith) (fun h => by linarith)

/-- HOTJ.V of code 0 is 0, of any other above 2^-5 in magnitude. -/
theorem value_scale_kHotV_cases {h : Int} (hlo : -8192 ≤ h) (hhi : h ≤ 8191) :
    value (scale h kHotV) = 0 ∨ 1 / 2 ^ 5 < |value (scale h kHotV)| := by
  by_cases h0 : h = 0
  · obtain ⟨hzero, -⟩ := scale_kHotV_patterns
    rw [h0, hzero]
    exact .inl (value_eq_zero (by decide))
  · refine .inr (lt_abs_of_close (value_scale_kHotV hlo hhi) ?_)
    exact (code_rat_cases h0).imp (fun h => by linarith) (fun h => by linarith)

/-- A code times 1/16 or more is 0 or above 2^-5 in magnitude. -/
theorem code_mul_cases (n : Int) {κ : Rat} (hκ : 1 / 16 ≤ κ) : (n * κ : Rat) = 0 ∨ 1 / 2 ^ 5 < |(n * κ : Rat)| := by
  by_cases h0 : n = 0
  · exact .inl (by rw [h0, Int.cast_zero, zero_mul])
  · refine .inr (lt_abs.2 ?_)
    obtain h | h := code_rat_cases h0
    · exact .inr (by nlinarith)
    · exact .inl (by nlinarith)

/-- Settles O47: the exact results by their formula; for the others the error is below half of a code's step, and below the distance of
the exact results other than 0 from 2^-5. -/
theorem linearResultsAreOrdered : Obligations.LinearResultsAreOrdered := by
  refine ⟨fun c hlo hhi => ⟨fun hlt => ⟨?_, ?_⟩, ?_, ?_⟩, fun h hlo hhi => ⟨fun hlt => ⟨?_, ?_, ?_⟩, ?_, ?_, ?_⟩⟩
  · rw [value_scale_kColdC hlo hhi, value_scale_kColdC (by omega) (by omega)]
    push_cast
    linarith
  · exact lt_of_close ((value_scaleF_kColdF hlo hhi).trans (by norm_num))
      ((value_scaleF_kColdF (by omega) (by omega)).trans (by norm_num)) (by push_cast; linarith)
  · rw [value_scale_kColdC hlo hhi]
    exact code_mul_cases c (by norm_num)
  · exact lt_abs_of_close ((value_scaleF_kColdF hlo hhi).trans (by norm_num)) (coldFahrenheit_rat_cases c)
  · rw [value_scale_kHotC hlo hhi, value_scale_kHotC (by omega) (by omega)]
    push_cast
    linarith
  · exact lt_of_close ((value_scaleF_kHotF hlo hhi).trans (by norm_num))
      ((value_scaleF_kHotF (by omega) (by omega)).trans (by norm_num)) (by push_cast; linarith)
  · exact lt_of_close (value_scale_kHotV hlo hhi) (value_scale_kHotV (by omega) (by omega)) (by push_cast; linarith)
  · rw [value_scale_kHotC hlo hhi]
    exact code_mul_cases h (by norm_num)
  · exact lt_abs_of_close ((value_scaleF_kHotF hlo hhi).trans (by norm_num)) (hotFahrenheit_rat_cases h)
  · exact value_scale_kHotV_cases hlo hhi

end Sys2Proof.Machine
end

section
/-! PROOFS. HOTJ.ADJ: its operation sequence, its error under the other types, and what it depends on (43_polynomial R141, R149, R150,
R152 d). -/

namespace Sys2Proof.Machine

open Binary64

theorem answer_hotjAdj_n (f : Frame) : answer .hotjAdj f .n = .ok false (adjustedResult f) none := rfl

/-- R141: under any other type the answer is the error. -/
theorem answer_hotjAdj_other {ty : ThermocoupleType} (h : ty ≠ .n) (f : Frame) :
    answer .hotjAdj f ty = .error (.unsupportedConfiguration ty) := by
  cases ty with
  | n => exact absurd rfl h
  | k | j | t | e | s | r => rfl

/-- Under type N, HOTJ.ADJ answers the adjusted result and does nothing else. -/
theorem exec_hotjAdj_n {s : State} (h : s.tctype = .n) :
    exec .hotjAdj s = .next { s with responses := s.responses ++ [.ok false (adjustedResult s.frame) none] } := by
  have hans := exec_answers (i := .hotjAdj) (by decide) s
  rw [h, answer_hotjAdj_n] at hans
  exact hans

/-- R152 (d): the result depends on the two codes alone. -/
theorem adjustedResult_congr {f g : Frame} (hh : hotCode f = hotCode g) (hc : coldCode f = coldCode g) :
    adjustedResult f = adjustedResult g := by
  simp only [adjustedResult, adjustedTemp, adjustedVoltage, cjcVoltage, cjcTemp, hh, hc]

/-- R152 (a), for one frame with both codes 0. -/
theorem adjustedResult_zero : adjustedResult 0#32 = 0#64 := by decide +kernel

/-- The loop of R149: the accumulator is a fold over the lower coefficients, from the last but one down, that begins with the last. -/
theorem hornerAcc_eq_foldl (as : List Word64) (last t : Word64) :
    hornerAcc (as ++ [last]) t = as.reverse.foldl (fun acc a => add (mul acc t) a) last := by
  induction as with
  | nil => rfl
  | cons a as ih =>
    obtain ⟨b, rest, hcons⟩ := List.exists_cons_of_ne_nil (List.append_ne_nil_of_right_ne_nil as (List.cons_ne_nil last []))
    rw [List.cons_append, hcons, hornerAcc, ← hcons, ih, List.reverse_cons, List.foldl_append]
    rfl

/-- Settles O48: both Horner loops as folds over their tables. -/
theorem adjustedResultFollowsItsSequence : Obligations.AdjustedResultFollowsItsSequence := by
  refine fun s h => ⟨cjcTemp s.frame, cjcVoltage s.frame, scale (hotCode s.frame) kHotV, adjustedVoltage s.frame,
    adjustedTemp s.frame, adjustedResult s.frame, exec_hotjAdj_n h, rfl, ?_, rfl, rfl, ?_, rfl⟩
  · exact congrArg (mul · _) (hornerAcc_eq_foldl (tableA.dropLast.map Constant.bits) _ _)
  · exact congrArg (mul · _) (hornerAcc_eq_foldl (tableB.dropLast.map Constant.bits) _ _)

/-- Settles O49. -/
theorem otherTypesAreUnsupported : Obligations.OtherTypesAreUnsupported := by
  refine fun s h => ⟨.error (.unsupportedConfiguration s.tctype), ?_, rfl, rfl, rfl, rfl⟩
  rw [exec_answers (by decide), answer_hotjAdj_other h]
  rfl

/-- Settles O50: by `adjustedResult_congr`, for (a) with the frame 0. -/
theorem adjustedResultDependsOnCodesOnly : Obligations.AdjustedResultDependsOnCodesOnly := by
  refine ⟨fun s t u hs ht hh hc hr hu => ?_, fun s hs hh hc => ?_⟩
  · rw [exec_hotjAdj_n hs] at hu
    cases hu
    exact ⟨_, exec_hotjAdj_n ht, by rw [adjustedResult_congr hh hc, hr]⟩
  · have hzero : adjustedResult s.frame = adjustedResult 0#32 :=
      adjustedResult_congr (hh.trans (by decide)) (hc.trans (by decide))
    rw [exec_hotjAdj_n hs, hzero, adjustedResult_zero]

end Sys2Proof.Machine
end

section
/-! PROOFS. The error of Horner's method in binary64 (43_polynomial R149), and with it the bounds and the accuracy of HOTJ.ADJ (R152 b,
R151). All errors are measured against the sum of the magnitudes of a polynomial's terms at the end `T` of the argument's range: each
step of the loop adds at most one part in `2 ^ 50` of it. -/

namespace Sys2Proof.Machine

open Binary64

/-! ### The coefficients -/

/-- Settles O41: the 24 patterns by evaluation of `b64`. -/
theorem tablePatternsAreNearestToLiterals : Obligations.TablePatternsAreNearestToLiterals := by
  unfold Obligations.TablePatternsAreNearestToLiterals
  decide +kernel

/-- A coefficient whose pattern is near its literal, and whose literal is not near 0. -/
def Accurate (k : Constant) : Prop :=
  isFinite k.bits = true ∧ |value k.bits - literal k| ≤ |literal k| / 2 ^ 52 ∧ 1 / 2 ^ 130 ≤ |literal k|

theorem abs_literal_bounds : ∀ k ∈ tableA ++ tableB, 1 / 2 ^ 130 ≤ |literal k| ∧ |literal k| ≤ 2 ^ 10 := by
  decide +kernel

/-- The coefficients of both tables are accurate: their patterns are nearest to their literals. -/
theorem accurate_of_mem_tables {k : Constant} (hk : k ∈ tableA ++ tableB) : Accurate k := by
  obtain ⟨hlo, hhi⟩ := abs_literal_bounds k hk
  have hbits : ofFraction k.mant (10 ^ k.scale) = k.bits :=
    tablePatternsAreNearestToLiterals k (by rw [List.append_assoc]; exact List.mem_append_right _ hk)
  have hlit : (k.mant / (10 ^ k.scale : Nat) : Rat) = literal k := by
    rw [literal]
    push_cast
    rfl
  have hround := ofFraction_error k.mant (10 ^ k.scale) (Nat.pow_pos (by decide))
    (by rw [hlit]; exact lt_of_small hhi (by norm_num))
  rw [hlit, hbits] at hround
  obtain ⟨hfin, herr⟩ := hround
  refine ⟨hfin, (close_of_error le_rfl herr).trans ?_, hlo⟩
  linarith

/-! ### The exact polynomials -/

/-- The sum of the magnitudes of the terms of a polynomial whose first coefficient is that of the power 0, at `T`. -/
def absSum : List Constant → Rat → Rat
  | [], _ => 0
  | a :: as, T => |literal a| + T * absSum as T

theorem absSum_nonneg {T : Rat} (hT : 0 ≤ T) : ∀ as : List Constant, 0 ≤ absSum as T
  | [] => le_rfl
  | _ :: as => add_nonneg (abs_nonneg _) (mul_nonneg hT (absSum_nonneg hT as))

/-- A power sum that begins one index later has one factor more. -/
theorem powerSum_succ (x : Rat) : ∀ (as : List Constant) (i : Nat), powerSum as (i + 1) x = x * powerSum as i x
  | [], i => by simp [powerSum]
  | a :: as, i => by
    rw [powerSum, powerSum, powerSum_succ x as (i + 1), pow_succ]
    ring

/-- Horner's rule for the exact polynomial. -/
theorem powerSum_cons (a : Constant) (as : List Constant) (x : Rat) :
    powerSum (a :: as) 0 x = literal a + x * powerSum as 0 x := by
  rw [powerSum, powerSum_succ, pow_zero, mul_one]

theorem abs_powerSum_le {x T : Rat} (hx : |x| ≤ T) : ∀ as : List Constant, |powerSum as 0 x| ≤ absSum as T
  | [] => by simp [powerSum, absSum]
  | a :: as => by
    rw [powerSum_cons, absSum]
    refine (abs_add_le _ _).trans (add_le_add_right ?_ _)
    rw [abs_mul]
    exact mul_le_mul hx (abs_powerSum_le hx as) (abs_nonneg _) ((abs_nonneg x).trans hx)

/-- How far the polynomial moves with its argument: `n` coefficients give at most `n` times the sum of magnitudes, over `T`. -/
theorem abs_powerSum_sub_le {x y T : Rat} (hx : |x| ≤ T) (hy : |y| ≤ T) : ∀ as : List Constant,
    T * |powerSum as 0 x - powerSum as 0 y| ≤ as.length * (absSum as T * |x - y|)
  | [] => by simp [powerSum]
  | a :: as => by
    have hT : 0 ≤ T := (abs_nonneg x).trans hx
    have hS := absSum_nonneg hT as
    have ih := abs_powerSum_sub_le hx hy as
    have hsplit : powerSum (a :: as) 0 x - powerSum (a :: as) 0 y =
        (x - y) * powerSum as 0 x + y * (powerSum as 0 x - powerSum as 0 y) := by
      rw [powerSum_cons, powerSum_cons]
      ring
    have hfirst : |(x - y) * powerSum as 0 x| ≤ |x - y| * absSum as T := by
      rw [abs_mul]
      exact mul_le_mul_of_nonneg_left (abs_powerSum_le hx as) (abs_nonneg _)
    have hsecond : |y * (powerSum as 0 x - powerSum as 0 y)| ≤ as.length * (absSum as T * |x - y|) := by
      rw [abs_mul]
      exact (mul_le_mul_of_nonneg_right hy (abs_nonneg _)).trans ih
    have hlit : 0 ≤ (as.length + 1) * (|literal a| * |x - y|) := by positivity
    calc T * |powerSum (a :: as) 0 x - powerSum (a :: as) 0 y|
        ≤ T * (|x - y| * absSum as T + as.length * (absSum as T * |x - y|)) := by
          rw [hsplit]
          exact mul_le_mul_of_nonneg_left ((abs_add_le _ _).trans (add_le_add hfirst hsecond)) hT
      _ ≤ (as.length + 1) * ((|literal a| + T * absSum as T) * |x - y|) := by linarith
      _ = (a :: as).length * (absSum (a :: as) T * |x - y|) := by rw [absSum, List.length_cons]; push_cast; ring

/-! ### The rounding errors -/

/-- The product in a Horner step: with an accumulator within `n` parts in `2 ^ 50` of `S`, a bound for the exact value `P`. -/
theorem mul_acc_close {acc x : Word64} {T S P n : Rat} (hacc : isFinite acc = true) (hx : isFinite x = true) (hxT : |value x| ≤ T)
    (hP : |P| ≤ S) (herr : |value acc - P| ≤ n * (S / 2 ^ 50)) (hn : n ≤ 16) (hbig : T * S ≤ 2 ^ 100) :
    isFinite (mul acc x) = true ∧ |value acc * value x| ≤ 2 * (T * S) ∧
      |value (mul acc x) - value x * P| ≤ n * (T * S / 2 ^ 50) + (2 * (T * S) / 2 ^ 53 + 1 / 2 ^ 200) := by
  have hT : 0 ≤ T := (abs_nonneg _).trans hxT
  have hS : 0 ≤ S := (abs_nonneg _).trans hP
  have hsmall : n * (S / 2 ^ 50) ≤ S := by nlinarith
  have hbound : |value acc| ≤ 2 * S := by
    rw [show value acc = P + (value acc - P) by ring]
    exact (abs_add_le _ _).trans (by linarith)
  have hprod : |value acc * value x| ≤ 2 * (T * S) := by
    rw [abs_mul]
    calc |value acc| * |value x| ≤ 2 * S * T := mul_le_mul hbound hxT (abs_nonneg _) (by linarith)
      _ = 2 * (T * S) := by ring
  obtain ⟨hfin, hclose⟩ := mul_close hacc hx hprod (by linarith)
  have hcarried : |(value acc - P) * value x| ≤ n * (T * S / 2 ^ 50) := by
    rw [abs_mul]
    calc |value acc - P| * |value x| ≤ n * (S / 2 ^ 50) * T := mul_le_mul herr hxT (abs_nonneg _) ((abs_nonneg _).trans herr)
      _ = n * (T * S / 2 ^ 50) := by ring
  refine ⟨hfin, hprod, ?_⟩
  rw [show value (mul acc x) - value x * P =
    (value acc - P) * value x + (value (mul acc x) - value acc * value x) by ring]
  exact (abs_add_le _ _).trans (add_le_add hcarried hclose)

/-- One step of the loop adds one part in `2 ^ 50` to the error. -/
theorem horner_step_close {acc x : Word64} {a : Constant} {T S P n : Rat} (hacc : isFinite acc = true) (hx : isFinite x = true)
    (ha : Accurate a) (hxT : |value x| ≤ T) (hP : |P| ≤ S) (herr : |value acc - P| ≤ n * (S / 2 ^ 50)) (hn0 : 0 ≤ n) (hn : n ≤ 16)
    (hbig : |literal a| + T * S ≤ 2 ^ 100) :
    isFinite (add (mul acc x) a.bits) = true ∧
      |value (add (mul acc x) a.bits) - (literal a + value x * P)| ≤ (n + 1) * ((|literal a| + T * S) / 2 ^ 50) := by
  obtain ⟨hafin, haerr, hatiny⟩ := ha
  have hTS : 0 ≤ T * S := mul_nonneg ((abs_nonneg _).trans hxT) ((abs_nonneg _).trans hP)
  have hlit := abs_nonneg (literal a)
  obtain ⟨hmfin, hprod, hmerr⟩ := mul_acc_close hacc hx hxT hP herr hn (by linarith)
  have hxP : |value x * P| ≤ T * S := by
    rw [abs_mul]
    exact mul_le_mul hxT hP (abs_nonneg _) ((abs_nonneg _).trans hxT)
  have hcarried : n * (T * S / 2 ^ 50) ≤ T * S := by nlinarith
  have hsum : |value (mul acc x) + value a.bits| ≤ 4 * (|literal a| + T * S) := by
    rw [show value (mul acc x) + value a.bits =
      (literal a + value x * P) + ((value (mul acc x) - value x * P) + (value a.bits - literal a)) by ring]
    refine (abs_add_le _ _).trans ?_
    have := abs_add_le (literal a) (value x * P)
    have := abs_add_le (value (mul acc x) - value x * P) (value a.bits - literal a)
    linarith
  obtain ⟨hfin, hclose⟩ := add_close hmfin hafin hsum (by linarith)
  refine ⟨hfin, ?_⟩
  rw [show value (add (mul acc x) a.bits) - (literal a + value x * P) =
    (value (add (mul acc x) a.bits) - (value (mul acc x) + value a.bits)) +
      ((value (mul acc x) - value x * P) + (value a.bits - literal a)) by ring]
  refine (abs_add_le _ _).trans ?_
  have := abs_add_le (value (mul acc x) - value x * P) (value a.bits - literal a)
  have hgrow : 0 ≤ n * |literal a| := mul_nonneg hn0 hlit
  linarith

/-- The accumulator over `n` accurate coefficients is within `n` parts in `2 ^ 50` of the sum of magnitudes. -/
theorem hornerAcc_close {x : Word64} {T : Rat} (hx : isFinite x = true) (hxT : |value x| ≤ T) (hT : 1 ≤ T) :
    ∀ as : List Constant, (∀ a ∈ as, Accurate a) → absSum as T ≤ 2 ^ 100 → as.length ≤ 16 →
    isFinite (hornerAcc (as.map Constant.bits) x) = true ∧
      |value (hornerAcc (as.map Constant.bits) x) - powerSum as 0 (value x)| ≤ as.length * (absSum as T / 2 ^ 50)
  | [], _, _, _ => ⟨(by decide : isFinite 0#64 = true), by simp [hornerAcc, powerSum, value_eq_zero (by decide : magUnits 0#64 = 0)]⟩
  | [a], ha, _, _ => by
    obtain ⟨hfin, herr, -⟩ := ha a (List.mem_singleton.2 rfl)
    refine ⟨hfin, ?_⟩
    have hlit := abs_nonneg (literal a)
    have hsum : absSum [a] T = |literal a| := by rw [absSum, absSum, mul_zero, add_zero]
    have hpoly : powerSum [a] 0 (value x) = literal a := by rw [powerSum_cons, powerSum, mul_zero, add_zero]
    rw [hsum, hpoly, List.length_singleton, Nat.cast_one]
    exact herr.trans (by linarith)
  | a :: b :: rest, ha, hbig, hlen => by
    have hS := absSum_nonneg (by linarith : 0 ≤ T) (b :: rest)
    have hST : absSum (b :: rest) T ≤ T * absSum (b :: rest) T := le_mul_of_one_le_left hS hT
    have hlit := abs_nonneg (literal a)
    rw [absSum] at hbig
    obtain ⟨hfin, herr⟩ := hornerAcc_close hx hxT hT (b :: rest) (fun k hk => ha k (List.mem_cons_of_mem a hk)) (by linarith)
      (by simp only [List.length_cons] at hlen ⊢; omega)
    have hn : ((b :: rest).length : Rat) ≤ 16 := by
      have : (b :: rest).length ≤ 16 := (Nat.le_succ _).trans hlen
      exact_mod_cast this
    have hstep := horner_step_close hfin hx (ha a List.mem_cons_self) hxT (abs_powerSum_le hxT (b :: rest)) herr
      (Nat.cast_nonneg _) hn hbig
    rw [powerSum_cons, absSum, List.length_cons, Nat.cast_succ]
    exact hstep

/-- A polynomial without constant term, as the tables are read, is at most the sum of magnitudes. -/
theorem abs_powerSum_one_le {x T : Rat} (hx : |x| ≤ T) (table : List Constant) : |powerSum table 1 x| ≤ T * absSum table T := by
  rw [powerSum_succ, abs_mul]
  exact mul_le_mul hx (abs_powerSum_le hx table) (abs_nonneg _) ((abs_nonneg x).trans hx)

/-- Such a polynomial, with `n` coefficients, moves at most `n + 1` times the sum of magnitudes, over `T`. -/
theorem abs_powerSum_one_sub_le {x y T : Rat} (hx : |x| ≤ T) (hy : |y| ≤ T) (table : List Constant) :
    |powerSum table 1 x - powerSum table 1 y| ≤ (table.length + 1) * (absSum table T * |x - y|) := by
  have hsplit : powerSum table 1 x - powerSum table 1 y =
      (x - y) * powerSum table 0 x + y * (powerSum table 0 x - powerSum table 0 y) := by
    rw [powerSum_succ, powerSum_succ]
    ring
  have hfirst : |(x - y) * powerSum table 0 x| ≤ absSum table T * |x - y| := by
    rw [abs_mul, mul_comm]
    exact mul_le_mul_of_nonneg_right (abs_powerSum_le hx table) (abs_nonneg _)
  have hsecond : |y * (powerSum table 0 x - powerSum table 0 y)| ≤ table.length * (absSum table T * |x - y|) := by
    rw [abs_mul]
    exact (mul_le_mul_of_nonneg_right hy (abs_nonneg _)).trans (abs_powerSum_sub_le hx hy table)
  rw [hsplit]
  refine (abs_add_le _ _).trans ?_
  linarith

/-- Horner's method over `n` accurate coefficients is within `n + 1` parts in `2 ^ 50` of the sum of magnitudes. -/
theorem horner_close {x : Word64} {T : Rat} {table : List Constant} (hx : isFinite x = true) (hxT : |value x| ≤ T) (hT : 1 ≤ T)
    (ha : ∀ a ∈ table, Accurate a) (hne : table ≠ []) (hlen : table.length ≤ 16) (hbig : T * absSum table T ≤ 2 ^ 100) :
    isFinite (horner table x) = true ∧
      |value (horner table x) - powerSum table 1 (value x)| ≤ (table.length + 1) * (T * absSum table T / 2 ^ 50) := by
  have hS := absSum_nonneg (by linarith : 0 ≤ T) table
  have hST : absSum table T ≤ T * absSum table T := le_mul_of_one_le_left hS hT
  have htiny : 1 / 2 ^ 130 ≤ absSum table T := by
    obtain ⟨a, as, rfl⟩ := List.exists_cons_of_ne_nil hne
    obtain ⟨-, -, hlit⟩ := ha a List.mem_cons_self
    rw [absSum]
    exact hlit.trans (le_add_of_nonneg_right (mul_nonneg (by linarith) (absSum_nonneg (by linarith) as)))
  obtain ⟨hfin, herr⟩ := hornerAcc_close hx hxT hT table ha (by linarith) hlen
  obtain ⟨hfin', -, herr'⟩ := mul_acc_close hfin hx hxT (abs_powerSum_le hxT table) herr (by exact_mod_cast hlen) hbig
  rw [powerSum_succ]
  exact ⟨hfin', herr'.trans (by linarith)⟩

/-! ### The intermediate values -/

/-- The magnitudes of PA's terms over cold-junction temperatures up to 128. -/
theorem terms_tableA : 128 * absSum tableA 128 ≤ 3764 := by decide +kernel

/-- The magnitudes of PB's terms over voltages up to 78100. -/
theorem terms_tableB : 78100 * absSum tableB 78100 ≤ 1180000 := by decide +kernel

/-- R142: `t` is exact. -/
theorem cjcTemp_exact (f : Frame) :
    isFinite (cjcTemp f) = true ∧ value (cjcTemp f) = exactColdC (coldCode f) ∧ |exactColdC (coldCode f)| ≤ 128 := by
  obtain ⟨hlo, hhi⟩ := coldCode_range_rat f
  obtain ⟨hfin, hval⟩ := scale_exact (coldCode_natAbs_lt f) (by decide) (by decide) value_kColdC
  have hexact : exactColdC (coldCode f) = coldCode f * (1 / 16) := by
    rw [exactColdC, show literal kColdC = 1 / 16 by decide +kernel]
  refine ⟨hfin, hval.trans hexact.symm, ?_⟩
  rw [hexact, abs_le]
  constructor <;> linarith

/-- R143: the error of `va`. -/
theorem cjcVoltage_close (f : Frame) : isFinite (cjcVoltage f) = true ∧
    |value (cjcVoltage f) - polyA (exactColdC (coldCode f))| ≤ 1 / 2 ^ 34 ∧ |polyA (exactColdC (coldCode f))| ≤ 3764 := by
  obtain ⟨htfin, htval, htle⟩ := cjcTemp_exact f
  have hterms := terms_tableA
  obtain ⟨hfin, herr⟩ := horner_close (table := tableA) htfin (htval ▸ htle) (by norm_num)
    (fun a ha => accurate_of_mem_tables (List.mem_append_left _ ha)) (by decide) (by decide) (by linarith)
  rw [htval, show tableA.length = 10 by rfl] at herr
  push_cast at herr
  exact ⟨hfin, herr.trans (by linarith), (abs_powerSum_one_le htle tableA).trans hterms⟩

/-- HOTJ.V's error and range. -/
theorem scale_kHotV_exactHotV (f : Frame) : isFinite (scale (hotCode f) kHotV) = true ∧
    |value (scale (hotCode f) kHotV) - exactHotV (hotCode f)| < 1 / 2 ^ 36 ∧ |exactHotV (hotCode f)| ≤ 74253 := by
  obtain ⟨hlo, hhi⟩ := hotCode_range_rat f
  obtain ⟨hfin, herr⟩ := scale_kHotV_close f
  have hexact : exactHotV (hotCode f) = hotCode f * (1133 / 125) := by
    rw [exactHotV, show literal kHotV = 1133 / 125 by decide +kernel]
  rw [hexact]
  refine ⟨hfin, herr, ?_⟩
  rw [abs_le]
  constructor <;> linarith

/-- R145: the exact-layer value of `v`. -/
def exactAdjustedVoltage (f : Frame) : Rat := exactHotV (hotCode f) - polyA (exactColdC (coldCode f))

/-- R145: the error of `v`, and its range. -/
theorem adjustedVoltage_close (f : Frame) : isFinite (adjustedVoltage f) = true ∧
    |value (adjustedVoltage f) - exactAdjustedVoltage f| ≤ 1 / 2 ^ 33 ∧ |exactAdjustedVoltage f| ≤ 78017 := by
  obtain ⟨hafin, haerr, hale⟩ := cjcVoltage_close f
  obtain ⟨hhfin, hherr, hhle⟩ := scale_kHotV_exactHotV f
  rw [abs_le] at haerr hale hhle
  rw [abs_lt] at hherr
  obtain ⟨hfin, herr⟩ := sub_close (B := 78100) hhfin hafin (by rw [abs_le]; constructor <;> linarith) (by norm_num)
  rw [abs_le] at herr
  unfold exactAdjustedVoltage
  exact ⟨hfin, by rw [adjustedVoltage, abs_le]; constructor <;> linarith, by rw [abs_le]; constructor <;> linarith⟩

/-- R146: the error of `ta`, that of `v` carried through PB included, and its range. -/
theorem adjustedTemp_close (f : Frame) : isFinite (adjustedTemp f) = true ∧
    |value (adjustedTemp f) - polyB (exactAdjustedVoltage f)| ≤ 1 / 2 ^ 24 ∧ |polyB (exactAdjustedVoltage f)| ≤ 1180000 := by
  obtain ⟨hvfin, hverr, hvle⟩ := adjustedVoltage_close f
  have hterms := terms_tableB
  have hv : |value (adjustedVoltage f)| ≤ 78100 := by
    rw [abs_le] at hverr hvle ⊢
    constructor <;> linarith
  have hvle' : |exactAdjustedVoltage f| ≤ 78100 := hvle.trans (by norm_num)
  obtain ⟨hfin, hround⟩ := horner_close (table := tableB) hvfin hv (by norm_num)
    (fun a ha => accurate_of_mem_tables (List.mem_append_right _ ha)) (by decide) (by decide) (by linarith)
  have hcarried := abs_powerSum_one_sub_le hv hvle' tableB
  have hprod : absSum tableB 78100 * |value (adjustedVoltage f) - exactAdjustedVoltage f| ≤ 16 * (1 / 2 ^ 33) :=
    mul_le_mul (by linarith) hverr (abs_nonneg _) (by norm_num)
  rw [show tableB.length = 8 by rfl] at hround hcarried
  push_cast at hround hcarried
  refine ⟨hfin, ?_, (abs_powerSum_one_le hvle' tableB).trans hterms⟩
  have htri := abs_sub_le (value (adjustedTemp f)) (powerSum tableB 1 (value (adjustedVoltage f))) (polyB (exactAdjustedVoltage f))
  refine htri.trans ((add_le_add hround hcarried).trans ?_)
  linarith

/-- R148: the error of the result, and its range. -/
theorem adjustedResult_close (f : Frame) : isFinite (adjustedResult f) = true ∧
    |value (adjustedResult f) - exactAdj (hotCode f) (coldCode f)| ≤ 1 / 2 ^ 23 ∧
      |exactAdj (hotCode f) (coldCode f)| ≤ 1180128 := by
  obtain ⟨htfin, htval, htle⟩ := cjcTemp_exact f
  obtain ⟨hafin, haerr, hale⟩ := adjustedTemp_close f
  have hexact : exactAdj (hotCode f) (coldCode f) = polyB (exactAdjustedVoltage f) + exactColdC (coldCode f) := rfl
  rw [abs_le] at haerr hale htle
  obtain ⟨hfin, herr⟩ := add_close (B := 1300000) hafin htfin (by rw [htval, abs_le]; constructor <;> linarith) (by norm_num)
  rw [htval, abs_le] at herr
  rw [hexact]
  exact ⟨hfin, by rw [adjustedResult, abs_le]; constructor <;> linarith, by rw [abs_le]; constructor <;> linarith⟩

/-- A number near one of magnitude at most `B` is below any bound beyond. -/
theorem abs_lt_of_close {x a ε B C : Rat} (hx : |x - a| ≤ ε) (ha : |a| ≤ B) (h : B + ε < C) : |x| < C := by
  rw [show x = a + (x - a) by ring]
  exact (abs_add_le _ _).trans_lt (by linarith)

/-- Settles O51: each intermediate value is near its exact one, whose range leaves room. -/
theorem adjustedResultIsAlwaysFinite : Obligations.AdjustedResultIsAlwaysFinite := by
  intro f
  obtain ⟨htfin, htval, htle⟩ := cjcTemp_exact f
  obtain ⟨hvafin, hvaerr, hvale⟩ := cjcVoltage_close f
  obtain ⟨hvfin, hverr, hvle⟩ := adjustedVoltage_close f
  obtain ⟨htafin, htaerr, htale⟩ := adjustedTemp_close f
  obtain ⟨hfin, herr, hle⟩ := adjustedResult_close f
  exact ⟨htfin, htval ▸ htle, hvafin, abs_lt_of_close hvaerr hvale (by norm_num), hvfin,
    abs_lt_of_close hverr hvle (by norm_num), htafin, abs_lt_of_close htaerr htale (by norm_num), hfin,
    abs_lt_of_close herr hle (by norm_num)⟩

/-- Settles O52: the errors of the five steps add up to at most 2^-23. -/
theorem adjustedResultIsCloseToExact : Obligations.AdjustedResultIsCloseToExact :=
  fun f => (adjustedResult_close f).2.1.trans_lt (by norm_num)

end Sys2Proof.Machine
end
